-- ==== Sys2Proof/Word.lean ====
section
/-! DEFINITION. The unsigned words of the core (R109) and its two word arrays: sixteen 16-bit words (R201, R202) and
four 32-bit words (R203, R204), with their plainest access by index. -/

namespace Sys2Proof

/-- `u8` of R109. -/
abbrev U8 := BitVec 8
/-- `u16` of R109. -/
abbrev U16 := BitVec 16
/-- `u32` of R109. -/
abbrev U32 := BitVec 32
/-- `u128` of R109; also sixteen bytes, byte `k` at bits `8k+7:8k` (R306, R400). -/
abbrev U128 := BitVec 128
/-- The 32 key bytes, byte `k` at bits `8k+7:8k` (R400, R405). -/
abbrev U256 := BitVec 256

/-- A 128-bit value held as four 32-bit words (R203, R204). -/
structure Quad where
  w0 : U32
  w1 : U32
  w2 : U32
  w3 : U32
deriving DecidableEq, Repr

/-- Word `i` of four. -/
def Quad.get (q : Quad) (i : Fin 4) : U32 :=
  match i.val with
  | 0 => q.w0
  | 1 => q.w1
  | 2 => q.w2
  | _ => q.w3

/-- Four words given by their index. -/
def Quad.ofFn (f : Fin 4 → U32) : Quad := ⟨f 0, f 1, f 2, f 3⟩

/-- The same word four times. -/
def Quad.fill (w : U32) : Quad := ⟨w, w, w, w⟩

/-- XOR word by word. -/
def Quad.xor (x y : Quad) : Quad := ⟨x.w0 ^^^ y.w0, x.w1 ^^^ y.w1, x.w2 ^^^ y.w2, x.w3 ^^^ y.w3⟩

/-- One shift register: sixteen 16-bit words, word 0 the one discarded next, word 15 the one appended last (R201). -/
structure Lfsr where
  w0 : U16
  w1 : U16
  w2 : U16
  w3 : U16
  w4 : U16
  w5 : U16
  w6 : U16
  w7 : U16
  w8 : U16
  w9 : U16
  w10 : U16
  w11 : U16
  w12 : U16
  w13 : U16
  w14 : U16
  w15 : U16
deriving DecidableEq, Repr

/-- Word `k` of sixteen. -/
def Lfsr.get (l : Lfsr) (k : Fin 16) : U16 :=
  match k.val with
  | 0 => l.w0
  | 1 => l.w1
  | 2 => l.w2
  | 3 => l.w3
  | 4 => l.w4
  | 5 => l.w5
  | 6 => l.w6
  | 7 => l.w7
  | 8 => l.w8
  | 9 => l.w9
  | 10 => l.w10
  | 11 => l.w11
  | 12 => l.w12
  | 13 => l.w13
  | 14 => l.w14
  | _ => l.w15

/-- Sixteen words given by their index. -/
def Lfsr.ofFn (f : Fin 16 → U16) : Lfsr :=
  ⟨f 0, f 1, f 2, f 3, f 4, f 5, f 6, f 7, f 8, f 9, f 10, f 11, f 12, f 13, f 14, f 15⟩

/-- The same word sixteen times. -/
def Lfsr.fill (w : U16) : Lfsr := Lfsr.ofFn fun _ => w

/-- XOR word by word. -/
def Lfsr.xor (x y : Lfsr) : Lfsr := Lfsr.ofFn fun k => x.get k ^^^ y.get k

end Sys2Proof
end

