-- ==== Sys2Proof/Syntax.lean ====
section
/-! DEFINITION. The syntax: one constructor per row of the opcode table, the three commands of the command port (R401) and the
eighteen internal operations that have no command word (R407), each with the operands its rule names. -/

namespace Sys2Proof

/-- Which half of the key KEY_INJECT uses: bytes 0 to 15 or bytes 16 to 31 (R628). -/
inductive KeyHalf where
  | low
  | high
deriving DecidableEq, Repr

/-- The rows of the opcode table. -/
inductive Instr where
  /-- NOP (R621). -/
  | nop
  /-- INIT, with the `alt` field of the command word; key and nonce come from the ports (R405, R629). -/
  | init (alt : Bool)
  /-- NEXT (R630). -/
  | next
  /-- MULX_A (R504). -/
  | mulxA (v : U16)
  /-- MULXINV_A (R505). -/
  | mulxInvA (v : U16)
  /-- MULX_B (R506). -/
  | mulxB (v : U16)
  /-- MULXINV_B (R507). -/
  | mulxInvB (v : U16)
  /-- SBOX (R521). -/
  | sbox (x : U8)
  /-- XTIME32 (R522). -/
  | xtime32 (w : U32)
  /-- MIXCOL32 (R523). -/
  | mixcol32 (w : U32)
  /-- AESR on a state and a round key (R524). -/
  | aesr (x k : Quad)
  /-- SIGMA (R541). -/
  | sigma (x : Quad)
  /-- LFSR_STEP (R560). -/
  | lfsrStep
  /-- LFSR_ADVANCE (R561). -/
  | lfsrAdvance
  /-- FSM_ADVANCE (R581). -/
  | fsmAdvance
  /-- KS_COMBINE of one lane (R601). -/
  | ksCombine (i : Fin 4)
  /-- GEN_BLOCK (R603). -/
  | genBlock
  /-- LOAD_KEY_IV (R622). -/
  | loadKeyIv (key : U256) (nonce : U128) (alt : Bool)
  /-- ROUND_KEY_DERIVE (R625). -/
  | roundKeyDerive (key : U256)
  /-- WARMUP_FOLD of a generated block (R627). -/
  | warmupFold (z : U128)
  /-- KEY_INJECT of one key half (R628). -/
  | keyInject (key : U256) (half : KeyHalf)
deriving DecidableEq, Repr

/-- Why a command word is reserved, by the clause of R402 that says so. -/
inductive ReservedWord where
  /-- Bits 7:3 are not zero. -/
  | rsvNonzero
  /-- `op` is 11. -/
  | opReserved
  /-- `alt` is set and `op` is not INIT. -/
  | altWithoutInit
deriving DecidableEq, Repr

end Sys2Proof
end

