-- ==== Sys2Proof/WellFormed.lean ====
section
/-! DEFINITION. Well-formedness: which instructions the host can issue. The operands' ranges are in their types (a lane index is
a `Fin 4`); what is left to check is R407, that an internal operation is no command. -/

namespace Sys2Proof

/-- The instruction has a command word: it is NOP, INIT or NEXT (R403, R407). -/
def Instr.isCommand (i : Instr) : Bool :=
  match i with
  | .nop => true
  | .init _ => true
  | .next => true
  | .mulxA _ => false
  | .mulxInvA _ => false
  | .mulxB _ => false
  | .mulxInvB _ => false
  | .sbox _ => false
  | .xtime32 _ => false
  | .mixcol32 _ => false
  | .aesr _ _ => false
  | .sigma _ => false
  | .lfsrStep => false
  | .lfsrAdvance => false
  | .fsmAdvance => false
  | .ksCombine _ => false
  | .genBlock => false
  | .loadKeyIv _ _ _ => false
  | .roundKeyDerive _ => false
  | .warmupFold _ => false
  | .keyInject _ _ => false

/-- An instruction the host can put on the command port. -/
abbrev WellFormed (i : Instr) : Prop := i.isCommand = true

end Sys2Proof
end

