-- ==== Sys2Proof/Decode.lean ====
section
/-! DEFINITION. The decoder, total on the 256 command words and rejecting the reserved ones by name (R401, R402, R403), and the
encoder written from the same table. -/

namespace Sys2Proof

/-- The `op` field, bits 1:0 (R401). -/
def fieldOp (cw : U8) : BitVec 2 := cw.extractLsb' 0 2

/-- The `alt` field, bit 2 (R401). -/
def fieldAlt (cw : U8) : Bool := cw.getLsbD 2

/-- The `rsv` field, bits 7:3 (R401). -/
def fieldRsv (cw : U8) : BitVec 5 := cw.extractLsb' 3 5

/-- The decoder of R402, clause by clause in its order. -/
def decode (cw : U8) : Except ReservedWord Instr :=
  if fieldRsv cw ≠ 0 then .error .rsvNonzero
  else if fieldOp cw = 0b11 then .error .opReserved
  else if fieldAlt cw ∧ fieldOp cw ≠ 0b01 then .error .altWithoutInit
  else if fieldOp cw = 0b00 then .ok .nop
  else if fieldOp cw = 0b01 then .ok (.init (fieldAlt cw))
  else .ok .next

/-- The command word of an instruction (R403); an internal operation has none (R407). -/
def encode (i : Instr) : Option U8 :=
  match i with
  | .nop => some 0x00
  | .init false => some 0x01
  | .init true => some 0x05
  | .next => some 0x02
  | .mulxA _ => none
  | .mulxInvA _ => none
  | .mulxB _ => none
  | .mulxInvB _ => none
  | .sbox _ => none
  | .xtime32 _ => none
  | .mixcol32 _ => none
  | .aesr _ _ => none
  | .sigma _ => none
  | .lfsrStep => none
  | .lfsrAdvance => none
  | .fsmAdvance => none
  | .ksCombine _ => none
  | .genBlock => none
  | .loadKeyIv _ _ _ => none
  | .roundKeyDerive _ => none
  | .warmupFold _ => none
  | .keyInject _ _ => none

/-- The command word that the low `nbits` bits of `w` are: a command is one 8-bit word, whatever a table row counts (R406).
DESIGN CHOICE (log entry 13): a shorter row leaves the upper bits 0, and bits above bit 7 are no part of a command. -/
def tableWord (nbits w : Nat) : U8 := BitVec.ofNat 8 (w % 2 ^ nbits)

/-- What the decoder reads from a row of the opcode table. -/
def decodeTableWord (nbits w : Nat) : Option Instr :=
  match decode (tableWord nbits w) with
  | .ok i => some i
  | .error _ => none

end Sys2Proof
end

