-- ==== Sys2Proof/Config.lean ====
section
/-! DEFINITION. The two parameters of the core that change its results (R108; 90 C1, C2, C7). The core has no free value: no
result of it is undefined (R700). The fixed tables and constants of R212 stand with the units that read them. -/

namespace Sys2Proof

/-- `LFSR_STEPS_PER_BLOCK`, 1 or 8 and nothing else (R108). -/
inductive LfsrSteps where
  | one
  | eight
deriving DecidableEq, Repr

/-- The number the parameter stands for. -/
def LfsrSteps.toNat (n : LfsrSteps) : Nat :=
  match n with
  | .one => 1
  | .eight => 8

/-- `ROUND_KEY_SOURCE` (R108). -/
inductive RoundKeySource where
  | keyDerived
  | zero
deriving DecidableEq, Repr

/-- The parameters of one core instance. -/
structure Config where
  lfsrStepsPerBlock : LfsrSteps
  roundKeySource : RoundKeySource
deriving DecidableEq, Repr

/-- The default values, which define the hardware of the spec (R108). -/
def Config.default : Config := ⟨.eight, .keyDerived⟩

end Sys2Proof
end

