-- ==== Sys2Proof/Machine/State.lean ====
section
/-! DEFINITION. The state of the core: the tuple of R200, the input ports of R400, the two parameters of R108, and the model's
own two fields (the host's remaining transactions, and the result lines of an internal operation run alone). Plain data. -/

namespace Sys2Proof.Machine

/-- `phase`, the controller's lifecycle register (R206). -/
inductive Phase where
  | uninit
  | ready
  | faulted
deriving DecidableEq, Repr

/-- `fault_code` (R207). -/
inductive FaultCode where
  | none
  | notInitialized
  | reservedCommand
deriving DecidableEq, Repr

/-- The registers that hold "no value" until something writes them (R211, R218). -/
inductive RegName where
  | a
  | b
  | r1
  | r2
  | r3
  | k1
  | k2
  | ksOut
deriving DecidableEq, Repr

/-- A register of which the spec says that it may hold "no value" (R114, R211): its contents, and the mark that says whether it
holds a value. Every read goes through `regRead`, which faults while `written` is false. -/
structure Reg (α : Type) where
  written : Bool
  val : α
deriving DecidableEq, Repr

/-- The spec's "no value", over the contents the model names for it.
DESIGN CHOICE (log entries 1 and 2): the contents behind the mark; no operation of the model can read them. -/
def Reg.blank {α : Type} (contents : α) : Reg α := ⟨false, contents⟩

/-- The register pair A, B that LFSR_STEP and LFSR_ADVANCE work on. -/
structure LfsrPair where
  a : Lfsr
  b : Lfsr
deriving DecidableEq, Repr

/-- The three FSM registers that FSM_ADVANCE works on. -/
structure FsmRegs where
  r1 : Quad
  r2 : Quad
  r3 : Quad
deriving DecidableEq, Repr

/-- The values of the seven cipher registers, all of them holding one: what GEN_BLOCK reads. -/
structure Cipher where
  a : Lfsr
  b : Lfsr
  r1 : Quad
  r2 : Quad
  r3 : Quad
  k1 : Quad
  k2 : Quad
deriving DecidableEq, Repr

/-- What the host drives on the input ports during one transaction (R400). -/
structure Ports where
  rst : Bool
  cmdIn : U8
  keyIn : U256
  nonceIn : U128
deriving DecidableEq, Repr

/-- The idle bus: all zero, whose command word is NOP (92 D23). -/
def Ports.idle : Ports := ⟨false, 0x00, 0, 0⟩

/-- The result of an internal operation run alone. -/
inductive UnitOut where
  /-- Nothing has been put out. -/
  | nothing
  /-- A byte (SBOX). -/
  | byte (v : U8)
  /-- A 16-bit word (the field multipliers). -/
  | half (v : U16)
  /-- A 32-bit word (XTIME32, MIXCOL32, KS_COMBINE). -/
  | word (v : U32)
  /-- Four 32-bit words (AESR, SIGMA). -/
  | quad (v : Quad)
  /-- Sixteen bytes, byte `n` at bits `8n+7:8n` (GEN_BLOCK). -/
  | block (v : U128)
deriving DecidableEq, Repr

/-- The state of the core and of what drives it. -/
structure State where
  /-- Register A (R201). -/
  a : Reg Lfsr
  /-- Register B (R202). -/
  b : Reg Lfsr
  /-- FSM register R1 (R203). -/
  r1 : Reg Quad
  /-- FSM register R2 (R203). -/
  r2 : Reg Quad
  /-- FSM register R3 (R203). -/
  r3 : Reg Quad
  /-- Round-key register K1 (R204). -/
  k1 : Reg Quad
  /-- Round-key register K2 (R204). -/
  k2 : Reg Quad
  /-- The lifecycle register (R206). -/
  phase : Phase
  /-- The fault code (R207). -/
  faultCode : FaultCode
  /-- The keystream output register (R208). -/
  ksOut : Reg U128
  /-- Whether `ksOut` may be read by the host (R208). -/
  ksValid : Bool
  /-- The parameters of this instance; no step changes them (R108, R212). -/
  cfg : Config
  /-- The input ports as the host drives them for the next step (R400). -/
  ports : Ports
  /-- The transactions the host drives after that one, in order (R313). The model's own field (log entry 5). -/
  pending : List Ports
  /-- The result of the internal operation last run alone. The model's own field (log entry 4). -/
  unitOut : UnitOut
deriving DecidableEq, Repr

/-- How a step can stop without a next state. -/
inductive Fault where
  /-- Any command while the phase is FAULTED: "no command has a step" (R704). Raised by the meanings of NOP, INIT, NEXT and of a
  reserved word. Safe: the model stops where the core sits still until reset (log entries 3 and 16). -/
  | noStepInFaulted
  /-- A read of a register that holds no value: "Reading it is a fault of the model, never a draw of zero" (R211; R218, 92 D7, 93
section 1). Raised by `regRead`. Safe. -/
  | noValue (r : RegName)
  /-- A read of the keystream port while ks_valid is 0: "the model faults that observation" (R208). Raised by `readKeystream`,
  an observation, never by a step. Safe. -/
  | ksNotValid
deriving DecidableEq, Repr

/-- Refusals. -/
inductive Refusal where
  /-- An instruction without a meaning. No arm of `exec` answers it: every instruction is modelled. Safe. -/
  | notModelled (mnemonic : String)
deriving DecidableEq, Repr

/-- The machine right after reset (R218): UNINIT, no fault, ks_valid 0, and no value in any cipher register or in ks_out.
DESIGN CHOICE (log entries 1, 4, 5, 6): the contents behind "no value", the idle ports, no pending transaction, nothing on the
result lines, the default parameters. -/
def State.reset : State where
  a := .blank (.fill 0)
  b := .blank (.fill 0)
  r1 := .blank (.fill 0)
  r2 := .blank (.fill 0)
  r3 := .blank (.fill 0)
  k1 := .blank (.fill 0)
  k2 := .blank (.fill 0)
  phase := .uninit
  faultCode := .none
  ksOut := .blank 0
  ksValid := false
  cfg := .default
  ports := .idle
  pending := []
  unitOut := .nothing

end Sys2Proof.Machine
end

