-- ==== Sys2Proof/Machine/Operands.lean ====
section
/-! DEFINITION. Operand assembly: the byte order of the core (R302 to R307), which is little-endian everywhere and fixed (R308),
the bytes of the operand ports (R400, R405), and the word operators of R110 that Lean's bit vectors do not have by name. -/

namespace Sys2Proof.Machine

/-- Byte `k` of a byte string held as a bit vector: bits `8k+7:8k` (R304, R306, R400, R405). -/
def byteAt {n : Nat} (v : BitVec n) (k : Nat) : U8 := v.extractLsb' (8 * k) 8

/-- `u16(hi, lo)` of R110. -/
def u16OfBytes (hi lo : U8) : U16 := (hi.setWidth 16 <<< 8) ||| lo.setWidth 16

/-- `u32(hi, lo)` of R110 and R305. -/
def u32OfHalves (hi lo : U16) : U32 := (hi.setWidth 32 <<< 16) ||| lo.setWidth 32

/-- `le32(b0, b1, b2, b3)` of R110: byte `b0` least significant. -/
def le32 (b0 b1 b2 b3 : U8) : U32 :=
  b0.setWidth 32 ||| (b1.setWidth 32 <<< 8) ||| (b2.setWidth 32 <<< 16) ||| (b3.setWidth 32 <<< 24)

/-- `rotl32(w, n)` of R110, for 0 < n < 32. -/
def rotl32 (w : U32) (n : Nat) : U32 := (w <<< n) ||| (w >>> (32 - n))

/-- 16-bit word of a byte string whose low byte is byte `k`: `(b[k+1] << 8) | b[k]` (R302). -/
def le16At {n : Nat} (b : BitVec n) (k : Nat) : U16 := u16OfBytes (byteAt b (k + 1)) (byteAt b k)

/-- 32-bit word of a byte string whose low byte is byte `k` (R303). -/
def le32At {n : Nat} (b : BitVec n) (k : Nat) : U32 :=
  le32 (byteAt b k) (byteAt b (k + 1)) (byteAt b (k + 2)) (byteAt b (k + 3))

/-- Four little-endian words from sixteen bytes that begin at byte `k` (R303). -/
def quadAt {n : Nat} (b : BitVec n) (k : Nat) : Quad := Quad.ofFn fun j => le32At b (k + 4 * j.val)

/-- The word of four that byte `n` of the 128-bit value lies in. -/
def quadWordOf (n : Fin 16) : Fin 4 := ⟨n.val / 4, by omega⟩

/-- Byte `n` of a 128-bit value held as four words: byte `4i+j` is bits `8j+7:8j` of word `i` (R304). -/
def quadByte (x : Quad) (n : Fin 16) : U8 := byteAt (x.get (quadWordOf n)) (n.val % 4)

/-- Four words from their sixteen bytes, the inverse of `quadByte` (R303, R304). -/
def quadOfBytes (t : Fin 16 → U8) : Quad :=
  ⟨le32 (t 0) (t 1) (t 2) (t 3), le32 (t 4) (t 5) (t 6) (t 7),
   le32 (t 8) (t 9) (t 10) (t 11), le32 (t 12) (t 13) (t 14) (t 15)⟩

/-- Four lanes as sixteen bytes, `z[4i+j] = lane_i[8j+7:8j]` (R306, R602). -/
def serialize (lane : Quad) : U128 :=
  lane.w0.setWidth 128 ||| (lane.w1.setWidth 128 <<< 32) ||| (lane.w2.setWidth 128 <<< 64) |||
    (lane.w3.setWidth 128 <<< 96)

/-- The bytes of a block in their order, byte 0 first (R306). -/
def blockBytes (z : U128) : List U8 := (List.range 16).map (byteAt z)

end Sys2Proof.Machine
end

