-- ==== Sys2Proof/Machine/Ops.lean ====
section
/-! DEFINITION. The named operations over the registers and ports: reading and writing a register that may hold no value, fault
entry (R702), reset (R800), the phase gate of a command (R620, R704), a reserved word (R631), and the host's next transaction. -/

namespace Sys2Proof.Machine

/-- What a meaning answers. -/
abbrev Result := Host.Outcome State Fault Refusal

/-- Read a register: its value, or the fault of R211 while it holds no value. -/
def regRead {α : Type} (n : RegName) (r : Reg α) : Except Fault α :=
  if r.written then .ok r.val else .error (.noValue n)

/-- Write a register: from now on it holds a value. -/
def regWrite {α : Type} (v : α) : Reg α := ⟨true, v⟩

/-- A meaning that reads registers ends in the next state, or in the fault of the first read that found no value. -/
def finish (r : Except Fault State) : Result :=
  match r with
  | .ok t => .next t
  | .error f => .fault f

/-- Read the register pair. -/
def readPair (s : State) : Except Fault LfsrPair :=
  match regRead .a s.a, regRead .b s.b with
  | .ok a, .ok b => .ok ⟨a, b⟩
  | .error f, _ => .error f
  | _, .error f => .error f

/-- Write the register pair. -/
def writePair (s : State) (p : LfsrPair) : State := { s with a := regWrite p.a, b := regWrite p.b }

/-- Read all seven cipher registers, in the order of R200. -/
def readCipher (s : State) : Except Fault Cipher := do
  let a ← regRead .a s.a
  let b ← regRead .b s.b
  let r1 ← regRead .r1 s.r1
  let r2 ← regRead .r2 s.r2
  let r3 ← regRead .r3 s.r3
  let k1 ← regRead .k1 s.k1
  let k2 ← regRead .k2 s.k2
  return ⟨a, b, r1, r2, r3, k1, k2⟩

/-- Write all seven cipher registers (INIT, R629). -/
def writeCipher (s : State) (c : Cipher) : State :=
  { s with
    a := regWrite c.a
    b := regWrite c.b
    r1 := regWrite c.r1
    r2 := regWrite c.r2
    r3 := regWrite c.r3
    k1 := regWrite c.k1
    k2 := regWrite c.k2 }

/-- Write the five registers a generation writes: A, B, R1, R2, R3, and not K1, K2 (R603). -/
def writeGenerated (s : State) (c : Cipher) : State :=
  { s with
    a := regWrite c.a
    b := regWrite c.b
    r1 := regWrite c.r1
    r2 := regWrite c.r2
    r3 := regWrite c.r3 }

/-- Put the result of an internal operation on the result lines (log entry 4). -/
def putUnit (s : State) (v : UnitOut) : State := { s with unitOut := v }

/-- Fault entry: "raise Fault(code)" writes the phase and the fault code and nothing else (R702). -/
def raiseFault (s : State) (code : FaultCode) : State := { s with phase := .faulted, faultCode := code }

/-- A command's gate: in FAULTED no command has a step (R620, R704). -/
def command (s : State) (body : Result) : Result :=
  if s.phase = .faulted then .fault .noStepInFaulted else body

/-- Reset: every piece of the core's state takes its reset value (R800, R218). The parameters stay, and so does what the host
drives and will drive, which is outside the core. DESIGN CHOICE (log entry 7): the result lines go back to nothing. -/
def resetCore (s : State) : State :=
  { State.reset with cfg := s.cfg, ports := s.ports, pending := s.pending }

/-- The command word on the port, decoded (R402). -/
def fetch (s : State) : Except ReservedWord Instr := decode s.ports.cmdIn

/-- A reserved word: RESERVED_COMMAND in UNINIT and READY (R631, R701), no step in FAULTED (R704). -/
def execReserved (s : State) : Result := command s (.next (raiseFault s .reservedCommand))

/-- The host moves on to its next transaction once a command has completed (R313), and leaves the bus idle when it has none.
DESIGN CHOICE (log entry 5). -/
def hostAdvance (s : State) : State :=
  match s.pending with
  | [] => { s with ports := .idle }
  | p :: rest => { s with ports := p, pending := rest }

/-- `hostAdvance` after a step that has a next state; a stop stays as it is. DESIGN CHOICE (log entry 16): so a run of `step` ends at
a command that has no step in FAULTED (R704), and a reset the host would drive after it stays in `pending`; `hostTurn` goes on. -/
def thenHost (r : Result) : Result :=
  match r with
  | .next t => .next (hostAdvance t)
  | .fault f => .fault f
  | .refused x => .refused x

/-- The host puts a command word on the port for the next step, with `rst` deasserted; key and nonce stay as driven. -/
def driveWord (s : State) (cw : U8) : State := { s with ports := { s.ports with rst := false, cmdIn := cw } }

end Sys2Proof.Machine
end

