-- ==== Sys2Proof/Machine/BlockTransform.lean ====
section
/-! DEFINITION. The block-transform engine: the S-box, the diffusion step and the round AESR (R520 to R524). -/

namespace Sys2Proof.Machine

/-- `SBOX_TABLE`, row by row as R520 prints it (log entry 10). -/
def sboxRows : List (List U8) :=
  [[0x63, 0x7c, 0x77, 0x7b, 0xf2, 0x6b, 0x6f, 0xc5, 0x30, 0x01, 0x67, 0x2b, 0xfe, 0xd7, 0xab, 0x76],
   [0xca, 0x82, 0xc9, 0x7d, 0xfa, 0x59, 0x47, 0xf0, 0xad, 0xd4, 0xa2, 0xaf, 0x9c, 0xa4, 0x72, 0xc0],
   [0xb7, 0xfd, 0x93, 0x26, 0x36, 0x3f, 0xf7, 0xcc, 0x34, 0xa5, 0xe5, 0xf1, 0x71, 0xd8, 0x31, 0x15],
   [0x04, 0xc7, 0x23, 0xc3, 0x18, 0x96, 0x05, 0x9a, 0x07, 0x12, 0x80, 0xe2, 0xeb, 0x27, 0xb2, 0x75],
   [0x09, 0x83, 0x2c, 0x1a, 0x1b, 0x6e, 0x5a, 0xa0, 0x52, 0x3b, 0xd6, 0xb3, 0x29, 0xe3, 0x2f, 0x84],
   [0x53, 0xd1, 0x00, 0xed, 0x20, 0xfc, 0xb1, 0x5b, 0x6a, 0xcb, 0xbe, 0x39, 0x4a, 0x4c, 0x58, 0xcf],
   [0xd0, 0xef, 0xaa, 0xfb, 0x43, 0x4d, 0x33, 0x85, 0x45, 0xf9, 0x02, 0x7f, 0x50, 0x3c, 0x9f, 0xa8],
   [0x51, 0xa3, 0x40, 0x8f, 0x92, 0x9d, 0x38, 0xf5, 0xbc, 0xb6, 0xda, 0x21, 0x10, 0xff, 0xf3, 0xd2],
   [0xcd, 0x0c, 0x13, 0xec, 0x5f, 0x97, 0x44, 0x17, 0xc4, 0xa7, 0x7e, 0x3d, 0x64, 0x5d, 0x19, 0x73],
   [0x60, 0x81, 0x4f, 0xdc, 0x22, 0x2a, 0x90, 0x88, 0x46, 0xee, 0xb8, 0x14, 0xde, 0x5e, 0x0b, 0xdb],
   [0xe0, 0x32, 0x3a, 0x0a, 0x49, 0x06, 0x24, 0x5c, 0xc2, 0xd3, 0xac, 0x62, 0x91, 0x95, 0xe4, 0x79],
   [0xe7, 0xc8, 0x37, 0x6d, 0x8d, 0xd5, 0x4e, 0xa9, 0x6c, 0x56, 0xf4, 0xea, 0x65, 0x7a, 0xae, 0x08],
   [0xba, 0x78, 0x25, 0x2e, 0x1c, 0xa6, 0xb4, 0xc6, 0xe8, 0xdd, 0x74, 0x1f, 0x4b, 0xbd, 0x8b, 0x8a],
   [0x70, 0x3e, 0xb5, 0x66, 0x48, 0x03, 0xf6, 0x0e, 0x61, 0x35, 0x57, 0xb9, 0x86, 0xc1, 0x1d, 0x9e],
   [0xe1, 0xf8, 0x98, 0x11, 0x69, 0xd9, 0x8e, 0x94, 0x9b, 0x1e, 0x87, 0xe9, 0xce, 0x55, 0x28, 0xdf],
   [0x8c, 0xa1, 0x89, 0x0d, 0xbf, 0xe6, 0x42, 0x68, 0x41, 0x99, 0x2d, 0x0f, 0xb0, 0x54, 0xbb, 0x16]]

/-- SBOX: entry `16h + l` of the table for the byte with high digit `h` and low digit `l` (R520, R521). -/
def sbox (x : U8) : U8 := (sboxRows.getD (x.toNat / 16) []).getD (x.toNat % 16) 0

/-- `xtime` of one byte: doubling in GF(2^8) modulo 0x11B (R522). -/
def xtime (b : U8) : U8 := (b <<< 1) ^^^ (if b.getLsbD 7 then 0x1B#8 else 0x00#8)

/-- XTIME32: four byte lanes doubled at once, with the masks of R522. -/
def xtime32 (w : U32) : U32 := ((w <<< 1) &&& 0xFEFEFEFE#32) ^^^ (((w >>> 7) &&& 0x01010101#32) * 0x1B#32)

/-- MIXCOL32 (R523). -/
def mixcol32 (w : U32) : U32 :=
  let t := rotl32 w 16 ^^^ xtime32 w
  w ^^^ t ^^^ rotl32 t 8

/-- Steps (1) and (2) of AESR: byte `n` of the state, substituted. -/
def subByte (x : Quad) (n : Fin 16) : U8 := sbox (quadByte x n)

/-- Step (3) of AESR: byte `4j` in bits 31:24, byte `4j+5` in bits 7:0, byte `4j+10` in bits 15:8, byte `4j+15` in bits 23:16,
indices modulo 16. -/
def gather (sb : Fin 16 → U8) (j : Fin 4) : U32 :=
  le32 (sb (Fin.ofNat 16 (4 * j.val + 5))) (sb (Fin.ofNat 16 (4 * j.val + 10)))
    (sb (Fin.ofNat 16 (4 * j.val + 15))) (sb (Fin.ofNat 16 (4 * j.val)))

/-- AESR: substitution, gather, diffusion and round-key addition (R524). -/
def aesr (x k : Quad) : Quad := Quad.ofFn fun j => mixcol32 (gather (subByte x) j) ^^^ k.get j

/-- The meaning of SBOX run alone (R521). -/
def execSbox (x : U8) (s : State) : Result := .next (putUnit s (.byte (sbox x)))
/-- The meaning of XTIME32 run alone (R522). -/
def execXtime32 (w : U32) (s : State) : Result := .next (putUnit s (.word (xtime32 w)))
/-- The meaning of MIXCOL32 run alone (R523). -/
def execMixcol32 (w : U32) (s : State) : Result := .next (putUnit s (.word (mixcol32 w)))
/-- The meaning of AESR run alone; its caller writes the register (R524). -/
def execAesr (x k : Quad) (s : State) : Result := .next (putUnit s (.quad (aesr x k)))

end Sys2Proof.Machine
end

