-- ==== Sys2Proof/Machine/Permutation.lean ====
section
/-! DEFINITION. The fixed byte permutation (R540, R541). -/

namespace Sys2Proof.Machine

/-- `SIGMA_TABLE` (R540, log entry 10). -/
def sigmaTable : List (Fin 16) := [0, 4, 8, 12, 1, 5, 9, 13, 2, 6, 10, 14, 3, 7, 11, 15]

/-- Entry `n` of the table. -/
def sigmaIndex (n : Fin 16) : Fin 16 := sigmaTable.getD n.val 0

/-- SIGMA: output byte `n` is input byte `SIGMA_TABLE[n]` (R541). -/
def sigma (x : Quad) : Quad := quadOfBytes fun n => quadByte x (sigmaIndex n)

/-- The meaning of SIGMA run alone; its caller writes the register (R541). -/
def execSigma (x : Quad) (s : State) : Result := .next (putUnit s (.quad (sigma x)))

end Sys2Proof.Machine
end

