-- ==== Sys2Proof/Machine/Fsm.lean ====
section
/-! DEFINITION. The FSM register array and its advance (R580, R581). -/

namespace Sys2Proof.Machine

/-- `T2_i = u32(A[2i+1], A[2i])` (R580, log entry 10). -/
def t2 (a : Lfsr) (i : Fin 4) : U32 :=
  u32OfHalves (a.get (Fin.ofNat 16 (2 * i.val + 1))) (a.get (Fin.ofNat 16 (2 * i.val)))

/-- Step 2 of FSM_ADVANCE: `(T2_i ^ R3[i]) +32 R2[i]`, the carry out discarded (R581, R112). -/
def fsmSum (a : Lfsr) (r2 r3 : Quad) : Quad := Quad.ofFn fun i => (t2 a i ^^^ r3.get i) + r2.get i

/-- FSM_ADVANCE, its five steps in the order of R581: the snapshot of R1, the sums, SIGMA, then R3 from the R2 not yet
overwritten, then R2 from the snapshot (R803 items 3 to 5). It reads A, K1 and K2 and does not write them. -/
def fsmAdvance (a : Lfsr) (k1 k2 : Quad) (r : FsmRegs) : FsmRegs :=
  let r1Old := r.r1
  let step2 : FsmRegs := { r with r1 := fsmSum a r.r2 r.r3 }
  let step3 : FsmRegs := { step2 with r1 := sigma step2.r1 }
  let step4 : FsmRegs := { step3 with r3 := aesr step3.r2 k2 }
  { step4 with r2 := aesr r1Old k1 }

/-- The three FSM registers, read in the order of R200. -/
def readFsm (s : State) : Except Fault FsmRegs := do
  let r1 ← regRead .r1 s.r1
  let r2 ← regRead .r2 s.r2
  let r3 ← regRead .r3 s.r3
  return ⟨r1, r2, r3⟩

/-- Write R1, R2 and R3, and nothing else (R581). -/
def writeFsm (s : State) (r : FsmRegs) : State :=
  { s with r1 := regWrite r.r1, r2 := regWrite r.r2, r3 := regWrite r.r3 }

/-- The meaning of FSM_ADVANCE run alone: it reads A, R1, R2, R3, K1 and K2, not B (R581). -/
def execFsmAdvance (s : State) : Result :=
  finish (do
    let a ← regRead .a s.a
    let r ← readFsm s
    let k1 ← regRead .k1 s.k1
    let k2 ← regRead .k2 s.k2
    return writeFsm s (fsmAdvance a k1 k2 r))

end Sys2Proof.Machine
end

