-- ==== Sys2Proof/Machine/FieldArith.lean ====
section
/-! DEFINITION. The GF(2^16) field multipliers (R500 to R507). -/

namespace Sys2Proof.Machine

/-- MULX: shift left, and XOR the constant if the top bit was set (R500). -/
def mulx (v c : U16) : U16 := if v.getLsbD 15 then (v <<< 1) ^^^ c else v <<< 1

/-- MULXINV: shift right, and XOR the constant if the bottom bit was set (R501). -/
def mulxInv (v d : U16) : U16 := if v.getLsbD 0 then (v >>> 1) ^^^ d else v >>> 1

/-- `C_A_MUL` (R502, log entry 10). -/
def cAMul : U16 := 0x990F
/-- `C_A_INV` (R502, log entry 10). -/
def cAInv : U16 := 0xCC87
/-- `C_B_MUL` (R502, log entry 10). -/
def cBMul : U16 := 0xC963
/-- `C_B_INV` (R502, log entry 10). -/
def cBInv : U16 := 0xE4B1

/-- MULX_A (R504). -/
def mulxA (v : U16) : U16 := mulx v cAMul
/-- MULXINV_A (R505). -/
def mulxInvA (v : U16) : U16 := mulxInv v cAInv
/-- MULX_B (R506). -/
def mulxB (v : U16) : U16 := mulx v cBMul
/-- MULXINV_B (R507). -/
def mulxInvB (v : U16) : U16 := mulxInv v cBInv

/-- The meaning of MULX_A run alone (R504). -/
def execMulxA (v : U16) (s : State) : Result := .next (putUnit s (.half (mulxA v)))
/-- The meaning of MULXINV_A run alone (R505). -/
def execMulxInvA (v : U16) (s : State) : Result := .next (putUnit s (.half (mulxInvA v)))
/-- The meaning of MULX_B run alone (R506). -/
def execMulxB (v : U16) (s : State) : Result := .next (putUnit s (.half (mulxB v)))
/-- The meaning of MULXINV_B run alone (R507). -/
def execMulxInvB (v : U16) (s : State) : Result := .next (putUnit s (.half (mulxInvB v)))

end Sys2Proof.Machine
end

