-- ==== Sys2Proof/Machine/ShiftRegisters.lean ====
section
/-! DEFINITION. The linear-feedback shift-register pair (R560, R561). -/

namespace Sys2Proof.Machine

/-- The word appended to A, from the words before the step (R560). -/
def tapU (p : LfsrPair) : U16 := mulxA (p.a.get 0) ^^^ p.a.get 1 ^^^ mulxInvA (p.a.get 8) ^^^ p.b.get 0

/-- The word appended to B, from the words before the step (R560). -/
def tapV (p : LfsrPair) : U16 := mulxB (p.b.get 0) ^^^ p.b.get 3 ^^^ mulxInvB (p.b.get 8) ^^^ p.a.get 0

/-- Word 0 leaves, every word moves one place down, and `w` becomes word 15 (R560). -/
def shiftIn (l : Lfsr) (w : U16) : Lfsr :=
  ⟨l.w1, l.w2, l.w3, l.w4, l.w5, l.w6, l.w7, l.w8, l.w9, l.w10, l.w11, l.w12, l.w13, l.w14, l.w15, w⟩

/-- LFSR_STEP (R560). -/
def lfsrStep (p : LfsrPair) : LfsrPair := ⟨shiftIn p.a (tapU p), shiftIn p.b (tapV p)⟩

/-- `n` steps one after the other. -/
def lfsrSteps (n : Nat) (p : LfsrPair) : LfsrPair :=
  match n with
  | 0 => p
  | n + 1 => lfsrSteps n (lfsrStep p)

/-- LFSR_ADVANCE: `LFSR_STEPS_PER_BLOCK` steps (R561). -/
def lfsrAdvance (cfg : Config) (p : LfsrPair) : LfsrPair := lfsrSteps cfg.lfsrStepsPerBlock.toNat p

/-- The meaning of LFSR_STEP run alone: it reads and writes A and B (R560). -/
def execLfsrStep (s : State) : Result := finish ((readPair s).map fun p => writePair s (lfsrStep p))

/-- The meaning of LFSR_ADVANCE run alone: it reads and writes A and B (R561). -/
def execLfsrAdvance (s : State) : Result := finish ((readPair s).map fun p => writePair s (lfsrAdvance s.cfg p))

end Sys2Proof.Machine
end

