-- ==== Sys2Proof/Machine/Keystream.lean ====
section
/-! DEFINITION. The keystream combiner and the generation of one block (R600 to R603). -/

namespace Sys2Proof.Machine

/-- `T1_i = u32(B[2i+9], B[2i+8])` (R600, log entry 10). -/
def t1 (b : Lfsr) (i : Fin 4) : U32 :=
  u32OfHalves (b.get (Fin.ofNat 16 (2 * i.val + 9))) (b.get (Fin.ofNat 16 (2 * i.val + 8)))

/-- The combiner on its three operands: `(T1_i +32 R1[i]) ^ R2[i]`, the carry out discarded (R601). -/
def combine (t r1w r2w : U32) : U32 := (t + r1w) ^^^ r2w

/-- KS_COMBINE of lane `i` (R601). -/
def ksCombine (b : Lfsr) (r1 r2 : Quad) (i : Fin 4) : U32 := combine (t1 b i) (r1.get i) (r2.get i)

/-- FSM_ADVANCE on the cipher registers. -/
def cipherFsm (c : Cipher) : Cipher :=
  let r := fsmAdvance c.a c.k1 c.k2 ⟨c.r1, c.r2, c.r3⟩
  { c with r1 := r.r1, r2 := r.r2, r3 := r.r3 }

/-- LFSR_ADVANCE on the cipher registers. -/
def cipherLfsr (cfg : Config) (c : Cipher) : Cipher :=
  let p := lfsrAdvance cfg ⟨c.a, c.b⟩
  { c with a := p.a, b := p.b }

/-- GEN_BLOCK: the output from the values before any update, then FSM_ADVANCE, then LFSR_ADVANCE (R603, R803 items 1 and 2). -/
def genBlock (cfg : Config) (c : Cipher) : U128 × Cipher :=
  let z := serialize (Quad.ofFn (ksCombine c.b c.r1 c.r2))
  let afterFsm := cipherFsm c
  let afterLfsr := cipherLfsr cfg afterFsm
  (z, afterLfsr)

/-- What KS_COMBINE reads: B, R1 and R2; "R3 is not read" (R601). -/
def readCombiner (s : State) : Except Fault (Lfsr × Quad × Quad) := do
  let b ← regRead .b s.b
  let r1 ← regRead .r1 s.r1
  let r2 ← regRead .r2 s.r2
  return (b, r1, r2)

/-- The meaning of KS_COMBINE run alone (R601). -/
def execKsCombine (i : Fin 4) (s : State) : Result :=
  finish ((readCombiner s).map fun x => putUnit s (.word (ksCombine x.1 x.2.1 x.2.2 i)))

/-- The meaning of GEN_BLOCK run alone: it writes A, B, R1, R2, R3 and returns the block (R603). -/
def execGenBlock (s : State) : Result :=
  finish ((readCipher s).map fun c =>
    putUnit (writeGenerated s (genBlock s.cfg c).2) (.block (genBlock s.cfg c).1))

end Sys2Proof.Machine
end

