-- ==== Sys2Proof/Machine/Controller.lean ====
section
/-! DEFINITION. The initialization controller and the three commands (R620 to R631). -/

namespace Sys2Proof.Machine

/-- `ALT_CONST[0..8)` (R623). UNVERIFIED (log entry 10): no vector confirms it. -/
def altConst : List U16 := [0x6C41, 0x7865, 0x6B45, 0x2064, 0x694A, 0x676E, 0x6854, 0x6D6F]

/-- LOAD_KEY_IV on A: `A[0..8)` from the nonce, `A[8..16)` from the low half of the key (R622). -/
def loadA (key : U256) (nonce : U128) : Lfsr :=
  Lfsr.ofFn fun k => if k.val < 8 then le16At nonce (2 * k.val) else le16At key (2 * (k.val - 8))

/-- LOAD_KEY_IV on B: `B[0..8)` zero, or the alternate constant if `alt` is set, and `B[8..16)` from the high half of the key
(R622, R623). -/
def loadB (key : U256) (alt : Bool) : Lfsr :=
  Lfsr.ofFn fun k =>
    if k.val < 8 then (if alt then altConst.getD k.val 0 else 0x0000) else le16At key (2 * (k.val - 8) + 16)

/-- LOAD_KEY_IV (R622). -/
def loadKeyIv (key : U256) (nonce : U128) (alt : Bool) : LfsrPair := ⟨loadA key nonce, loadB key alt⟩

/-- One half of the key as four little-endian words (R625, R628). -/
def keyHalfWords (key : U256) (half : KeyHalf) : Quad :=
  match half with
  | .low => quadAt key 0
  | .high => quadAt key 16

/-- ROUND_KEY_DERIVE: the values for K1 and K2, for either value of `ROUND_KEY_SOURCE` (R625). -/
def roundKeyDerive (cfg : Config) (key : U256) : Quad × Quad :=
  match cfg.roundKeySource with
  | .keyDerived => (keyHalfWords key .low, keyHalfWords key .high)
  | .zero => (.fill 0, .fill 0)

/-- WARMUP_FOLD: the block's eight little-endian 16-bit words into `A[8..16)` (R627, R307). -/
def warmupFold (z : U128) (a : Lfsr) : Lfsr :=
  Lfsr.ofFn fun k => if k.val < 8 then a.get k else a.get k ^^^ le16At z (2 * (k.val - 8))

/-- KEY_INJECT: one key half into R1 (R628). -/
def keyInject (key : U256) (half : KeyHalf) (r1 : Quad) : Quad := r1.xor (keyHalfWords key half)

/-- The key injection that belongs to warm-up generation `i`: the low half at 14, the high half at 15, none elsewhere (R626). -/
def injectAt (key : U256) (i : Nat) (r1 : Quad) : Quad :=
  if i = 14 then keyInject key .low r1
  else if i = 15 then keyInject key .high r1
  else r1

/-- Warm-up generation `i`: GEN_BLOCK, then the fold, then the injection if there is one (R626, R803 item 7). -/
def warmupStep (cfg : Config) (key : U256) (i : Nat) (c : Cipher) : Cipher :=
  let g := genBlock cfg c
  { g.2 with a := warmupFold g.1 g.2.a, r1 := injectAt key i g.2.r1 }

/-- The first `n` warm-up generations, indices 0 to n-1 in order. -/
def warmupN (cfg : Config) (key : U256) (n : Nat) (c : Cipher) : Cipher :=
  match n with
  | 0 => c
  | n + 1 => warmupStep cfg key n (warmupN cfg key n c)

/-- The cipher registers before the warm-up: LOAD_KEY_IV, the zeroed FSM (R624) and ROUND_KEY_DERIVE. -/
def loadedCipher (cfg : Config) (key : U256) (nonce : U128) (alt : Bool) : Cipher :=
  let p := loadKeyIv key nonce alt
  let k := roundKeyDerive cfg key
  ⟨p.a, p.b, .fill 0, .fill 0, .fill 0, k.1, k.2⟩

/-- The cipher registers after INIT: sixteen warm-up generations from the loaded ones (R626, R629). -/
def initCipher (cfg : Config) (key : U256) (nonce : U128) (alt : Bool) : Cipher :=
  warmupN cfg key 16 (loadedCipher cfg key nonce alt)

/-- The meaning of LOAD_KEY_IV run alone: it writes A and B (R622). -/
def execLoadKeyIv (key : U256) (nonce : U128) (alt : Bool) (s : State) : Result :=
  .next (writePair s (loadKeyIv key nonce alt))

/-- The meaning of ROUND_KEY_DERIVE run alone: it writes K1 and K2 (R625). -/
def execRoundKeyDerive (key : U256) (s : State) : Result :=
  .next { s with k1 := regWrite (roundKeyDerive s.cfg key).1, k2 := regWrite (roundKeyDerive s.cfg key).2 }

/-- The meaning of WARMUP_FOLD run alone: it writes A (R627). -/
def execWarmupFold (z : U128) (s : State) : Result :=
  finish ((regRead .a s.a).map fun a => { s with a := regWrite (warmupFold z a) })

/-- The meaning of KEY_INJECT run alone: it writes R1 (R628). -/
def execKeyInject (key : U256) (half : KeyHalf) (s : State) : Result :=
  finish ((regRead .r1 s.r1).map fun r1 => { s with r1 := regWrite (keyInject key half r1) })

/-- NOP: nothing (R621). -/
def execNop (s : State) : Result := command s (.next s)

/-- INIT: load, zero, derive, warm up, then ks_valid 0 with ks_out left with no value, and READY (R629). Key and nonce are the
operand ports sampled at issue (R405, R310). The fault code stays as it is. DESIGN CHOICE (log entry 2): the contents behind
ks_out's "no value". -/
def execInit (alt : Bool) (s : State) : Result :=
  command s (.next
    { writeCipher s (initCipher s.cfg s.ports.keyIn s.ports.nonceIn alt) with
      ksOut := .blank 0, ksValid := false, phase := .ready })

/-- NEXT: one generation, its block to ks_out, ks_valid 1; in UNINIT the fault NOT_INITIALIZED instead (R630). -/
def execNext (s : State) : Result :=
  command s
    (if s.phase = .uninit then .next (raiseFault s .notInitialized)
     else finish ((readCipher s).map fun c =>
      { writeGenerated s (genBlock s.cfg c).2 with ksOut := regWrite (genBlock s.cfg c).1, ksValid := true }))

end Sys2Proof.Machine
end

