-- ==== Sys2Proof/Machine/Dispatch.lean ====
section
/-! DEFINITION. The dispatch of an instruction to its meaning, one arm per row of the opcode table. -/

namespace Sys2Proof.Machine

def exec (i : Instr) (s : State) : Host.Outcome State Fault Refusal :=
  match i with
  | .nop => Sys2Proof.Machine.execNop s
  | .init alt => Sys2Proof.Machine.execInit alt s
  | .next => Sys2Proof.Machine.execNext s
  | .mulxA v => Sys2Proof.Machine.execMulxA v s
  | .mulxInvA v => Sys2Proof.Machine.execMulxInvA v s
  | .mulxB v => Sys2Proof.Machine.execMulxB v s
  | .mulxInvB v => Sys2Proof.Machine.execMulxInvB v s
  | .sbox x => Sys2Proof.Machine.execSbox x s
  | .xtime32 w => Sys2Proof.Machine.execXtime32 w s
  | .mixcol32 w => Sys2Proof.Machine.execMixcol32 w s
  | .aesr x k => Sys2Proof.Machine.execAesr x k s
  | .sigma x => Sys2Proof.Machine.execSigma x s
  | .lfsrStep => Sys2Proof.Machine.execLfsrStep s
  | .lfsrAdvance => Sys2Proof.Machine.execLfsrAdvance s
  | .fsmAdvance => Sys2Proof.Machine.execFsmAdvance s
  | .ksCombine lane => Sys2Proof.Machine.execKsCombine lane s
  | .genBlock => Sys2Proof.Machine.execGenBlock s
  | .loadKeyIv key nonce alt => Sys2Proof.Machine.execLoadKeyIv key nonce alt s
  | .roundKeyDerive key => Sys2Proof.Machine.execRoundKeyDerive key s
  | .warmupFold z => Sys2Proof.Machine.execWarmupFold z s
  | .keyInject key half => Sys2Proof.Machine.execKeyInject key half s

end Sys2Proof.Machine
end

