-- ==== Sys2Proof/Machine/Step.lean ====
section
/-! DEFINITION. One step of the model is one transaction on the ports (R620): reset if `rst` is asserted (R800), else the command
on the port; then the host drives its next transaction (R313). -/

namespace Sys2Proof.Machine

/-- The command on the port: its meaning, or the fault of a reserved word (R402, R620). -/
def runCommand (s : State) : Result :=
  match fetch s with
  | .ok i => exec i s
  | .error _ => execReserved s

/-- One transaction. -/
def step (s : State) : Host.Outcome State Fault Refusal :=
  if s.ports.rst then .next (hostAdvance (resetCore s)) else thenHost (runCommand s)

/-- The state with a row's command word on the command port, so that the next step runs it (log entry 5). -/
def State.withFetchWord (s : State) (nbits w : Nat) : State := driveWord s (tableWord nbits w)

end Sys2Proof.Machine
end

