-- ==== Sys2Proof/Machine/HostProgram.lean ====
section
/-! DEFINITION. The host's side of the command port: the command-sequence notation of R408 and the pseudo-instructions of R409,
as the list of transactions the host drives, what it keeps of the blocks, and how it goes on after a command that had no step.
No step of the core depends on this file: it makes `ports` and `pending`. -/

namespace Sys2Proof.Machine

/-- A statement of the notation (R408) or a pseudo-instruction (R409). -/
inductive HostStmt where
  | nop
  | init (key : U256) (nonce : U128)
  | initAlt (key : U256) (nonce : U128)
  | next
  /-- `.reset`: assert `rst` for one transaction. -/
  | reset
  /-- `.word`: issue any command word. -/
  | word (w : U8)
  | keystream (n : Nat)
  | skip (n : Nat)
  | rekey (key : U256) (nonce : U128)
deriving DecidableEq, Repr

/-- One transaction that issues a word given without operands: NOP, NEXT, and any word of `.word`. DESIGN CHOICE (log entry 15): the
key and nonce lines idle at 0, so that `.word 01` and `.word 05` are INITs with a zero key and a zero nonce. -/
def issueWord (w : U8) : Ports := ⟨false, w, 0, 0⟩

/-- One transaction that asserts `rst`. DESIGN CHOICE (log entry 15): the command word beside it is 0x00 and the key and nonce lines
are 0; the core reads none of them, since no command runs during reset (R800). -/
def issueReset : Ports := ⟨true, 0x00, 0, 0⟩

/-- The transactions of a statement: the words of R408, and the expansions of R409. -/
def transactions (st : HostStmt) : List Ports :=
  match st with
  | .nop => [issueWord 0x00]
  | .init key nonce => [⟨false, 0x01, key, nonce⟩]
  | .initAlt key nonce => [⟨false, 0x05, key, nonce⟩]
  | .next => [issueWord 0x02]
  | .reset => [issueReset]
  | .word w => [issueWord w]
  | .keystream n => List.replicate ((n + 15) / 16) (issueWord 0x02)
  | .skip n => List.replicate n (issueWord 0x02)
  | .rekey key nonce => [⟨false, 0x01, key, nonce⟩]

/-- The host is about to drive these transactions, the first of them now. -/
def driveAll (s : State) (ts : List Ports) : State := hostAdvance { s with pending := ts }

/-- One transaction with the host going on: `step`, but a command that has no step in FAULTED (R704) leaves the core as it is while
the host drives its next transaction, as program P5 of 95 does with the `.reset` after such a NEXT. Any other stop stays one.
DESIGN CHOICE (log entry 16). -/
def hostTurn (s : State) : Result :=
  match step s with
  | .next t => .next t
  | .fault f => if f = .noStepInFaulted then .next (hostAdvance s) else .fault f
  | .refused x => .refused x

/-- The bytes the host keeps of a `KEYSTREAM n`: its blocks' bytes one after the other, cut to the first `n` (R409). -/
def keptKeystream (n : Nat) (blocks : List U128) : List U8 := (blocks.flatMap blockBytes).take n

/-- What R409 tells the host to keep of the blocks a statement produced: KEYSTREAM's first `n` bytes, and nothing of SKIP. No other
statement tells it to keep any: the block of a NEXT stands on the keystream port (R208). -/
def keptBytes (st : HostStmt) (blocks : List U128) : List U8 :=
  match st with
  | .nop => []
  | .init _ _ => []
  | .initAlt _ _ => []
  | .next => []
  | .reset => []
  | .word _ => []
  | .keystream n => keptKeystream n blocks
  | .skip _ => []
  | .rekey _ _ => []

/-- The value of a hexadecimal digit. DESIGN CHOICE (log entry 15): either case. -/
def hexValue (c : Char) : Option Nat :=
  if '0' ≤ c ∧ c ≤ '9' then some (c.toNat - 48)
  else if 'a' ≤ c ∧ c ≤ 'f' then some (c.toNat - 87)
  else if 'A' ≤ c ∧ c ≤ 'F' then some (c.toNat - 55)
  else none

/-- The value of a decimal digit. -/
def decimalValue (c : Char) : Option Nat := if '0' ≤ c ∧ c ≤ '9' then some (c.toNat - 48) else none

/-- A byte string in hexadecimal, two digits a byte, byte 0 first, as the number whose byte `k` is byte `k` of the string. -/
def hexBytes (l : List Char) : Option Nat :=
  match l with
  | [] => some 0
  | [_] => none
  | h :: d :: rest => do
    let hi ← hexValue h
    let lo ← hexValue d
    let more ← hexBytes rest
    return 16 * hi + lo + 256 * more

/-- A decimal number, digit after digit, `acc` being the value of those before. -/
def decimalFrom (acc : Nat) (l : List Char) : Option Nat :=
  match l with
  | [] => some acc
  | c :: rest => do
    let d ← decimalValue c
    decimalFrom (10 * acc + d) rest

/-- A blank: what may stand between two symbols of a line. DESIGN CHOICE (log entry 15): R408 names only the spaces inside a hex64;
the model takes a space, a tab and a carriage return as blanks. -/
def isBlank (c : Char) : Bool := c = ' ' || c = '\t' || c = '\r'

/-- A text without the blanks at its two ends. -/
def trimBlanks (l : List Char) : List Char := ((l.dropWhile isBlank).reverse.dropWhile isBlank).reverse

/-- What follows a given beginning. -/
def afterPrefix (p l : List Char) : Option (List Char) :=
  match p, l with
  | [], rest => some rest
  | c :: p, d :: l => if c = d then afterPrefix p l else none
  | _ :: _, [] => none

/-- `hex64`: 64 digits, "optionally split by spaces" (R408), and by no other blank. -/
def readKey (l : List Char) : Option U256 :=
  let digits := l.filter (· ≠ ' ')
  if digits.length = 64 then (hexBytes digits).map (BitVec.ofNat 256) else none

/-- `hex32`: 32 digits. DESIGN CHOICE (log entry 15): not split. -/
def readNonce (l : List Char) : Option U128 :=
  if l.length = 32 then (hexBytes l).map (BitVec.ofNat 128) else none

/-- The operands of INIT, INIT.ALT and REKEY: `key=` hex64 `,` `nonce=` hex32 (R408). DESIGN CHOICE (log entry 15): blanks may
stand before and after each of the four symbols, and not inside `key=` or `nonce=`, which are in lower case. -/
def readKeyNonce (l : List Char) : Option (U256 × U128) := do
  let afterKey ← afterPrefix ['k', 'e', 'y', '='] l
  let key ← readKey (trimBlanks (afterKey.takeWhile (· ≠ ',')))
  let afterComma ← afterPrefix [','] (afterKey.dropWhile (· ≠ ','))
  let nonceText ← afterPrefix ['n', 'o', 'n', 'c', 'e', '='] (trimBlanks afterComma)
  let nonce ← readNonce (trimBlanks nonceText)
  return (key, nonce)

/-- One statement, its mnemonic in any case (R408), without label, comment or surrounding blanks. DESIGN CHOICE (log entry 15): at
least one blank stands between the mnemonic and its operands, and the count of KEYSTREAM and SKIP is in decimal digits. -/
def readStmt (l : List Char) : Option HostStmt :=
  let mnemonic := (l.takeWhile fun c => !isBlank c).map Char.toLower
  let operands := trimBlanks (l.dropWhile fun c => !isBlank c)
  if mnemonic = ['n', 'o', 'p'] then (if operands = [] then some .nop else none)
  else if mnemonic = ['n', 'e', 'x', 't'] then (if operands = [] then some .next else none)
  else if mnemonic = ['.', 'r', 'e', 's', 'e', 't'] then (if operands = [] then some .reset else none)
  else if mnemonic = ['i', 'n', 'i', 't'] then (readKeyNonce operands).map fun x => .init x.1 x.2
  else if mnemonic = ['i', 'n', 'i', 't', '.', 'a', 'l', 't'] then (readKeyNonce operands).map fun x => .initAlt x.1 x.2
  else if mnemonic = ['r', 'e', 'k', 'e', 'y'] then (readKeyNonce operands).map fun x => .rekey x.1 x.2
  else if mnemonic = ['.', 'w', 'o', 'r', 'd'] then
    (if operands.length = 2 then (hexBytes operands).map fun n => .word (BitVec.ofNat 8 n) else none)
  else if mnemonic = ['k', 'e', 'y', 's', 't', 'r', 'e', 'a', 'm'] then
    (if operands = [] then none else (decimalFrom 0 operands).map .keystream)
  else if mnemonic = ['s', 'k', 'i', 'p'] then
    (if operands = [] then none else (decimalFrom 0 operands).map .skip)
  else none

/-- The text of a line before its comment, and after its label if it has one (R408). DESIGN CHOICE (log entry 15): a label is at
least one character, holds no blank, and may have blanks around it. `none` is a malformed label. -/
def stmtText (l : List Char) : Option (List Char) :=
  let text := l.takeWhile (· ≠ ';')
  let label := trimBlanks (text.takeWhile (· ≠ ':'))
  match text.dropWhile (· ≠ ':') with
  | [] => some (trimBlanks text)
  | _ :: rest => if label = [] ∨ label.any isBlank then none else some (trimBlanks rest)

/-- One line: no statement, one statement, or not of the notation. -/
def readLine (l : List Char) : Option (List HostStmt) := do
  let text ← stmtText l
  if text = [] then return []
  let st ← readStmt text
  return [st]

/-- A text cut at its line ends. DESIGN CHOICE (log entry 15): a line ends at a line feed. -/
def splitLines (l : List Char) : List (List Char) :=
  match l with
  | [] => [[]]
  | c :: rest =>
    if c = '\n' then [] :: splitLines rest
    else match splitLines rest with
      | [] => [[c]]
      | first :: others => (c :: first) :: others

/-- The statements of the lines, or `none` if a line is not of the notation. -/
def readLines (ls : List (List Char)) : Option (List HostStmt) :=
  match ls with
  | [] => some []
  | l :: rest => do
    let here ← readLine l
    let more ← readLines rest
    return here ++ more

/-- A program text of R408 as the transactions it drives, or `none` where it is not of the notation. -/
def readProgram (text : List Char) : Option (List Ports) :=
  (readLines (splitLines text)).map fun sts => sts.flatMap transactions

end Sys2Proof.Machine
end

