-- ==== Sys2Proof/Machine/Flags.lean ====
section
/-! DEFINITION. The core has no condition codes (R215). What takes their place is here: the status word (R209) and the keystream
port with its valid bit (R208). Both are observations: they change nothing (R311). -/

namespace Sys2Proof.Machine

/-- The 2-bit code of a phase (R206). -/
def phaseBits (p : Phase) : BitVec 2 :=
  match p with
  | .uninit => 0
  | .ready => 1
  | .faulted => 2

/-- The 2-bit fault code (R207). -/
def faultBits (c : FaultCode) : BitVec 2 :=
  match c with
  | .none => 0
  | .notInitialized => 1
  | .reservedCommand => 2

/-- The status port: phase in bits 1:0, ks_valid in bit 2, fault_code in bits 4:3, zeros in bits 7:5 (R209). -/
def statusWord (s : State) : U8 :=
  (phaseBits s.phase).setWidth 8 ||| ((BitVec.ofBool s.ksValid).setWidth 8 <<< 2) |||
    ((faultBits s.faultCode).setWidth 8 <<< 3)

/-- The keystream port: the last block, or the fault of the observation while ks_valid is 0 (R208). -/
def readKeystream (s : State) : Except Fault U128 :=
  if s.ksValid then regRead .ksOut s.ksOut else .error .ksNotValid

end Sys2Proof.Machine
end

