-- ==== Sys2Proof/Safety.lean ====
section
/-! DEFINITION. What the statements are said in: which registers hold a value, the values as one cipher, the invariant of the
core (R207, R208, R211, R213, R218), and what a good state is (R704). -/

namespace Sys2Proof

open Sys2Proof.Machine

/-- All seven cipher registers hold a value (R211). -/
abbrev CipherWritten (s : State) : Prop :=
  s.a.written = true ∧ s.b.written = true ∧ s.r1.written = true ∧ s.r2.written = true ∧ s.r3.written = true ∧
    s.k1.written = true ∧ s.k2.written = true

/-- None of the seven cipher registers holds a value (R218). -/
abbrev CipherBlank (s : State) : Prop :=
  s.a.written = false ∧ s.b.written = false ∧ s.r1.written = false ∧ s.r2.written = false ∧ s.r3.written = false ∧
    s.k1.written = false ∧ s.k2.written = false

/-- Whether a register holds a value (R211). -/
def holdsValue (s : State) (n : RegName) : Bool :=
  match n with
  | .a => s.a.written
  | .b => s.b.written
  | .r1 => s.r1.written
  | .r2 => s.r2.written
  | .r3 => s.r3.written
  | .k1 => s.k1.written
  | .k2 => s.k2.written
  | .ksOut => s.ksOut.written

/-- The first of some registers, in the order given, that holds no value. -/
def firstBlank (s : State) (order : List RegName) : Option RegName := order.find? fun n => !holdsValue s n

/-- The contents of the seven cipher registers, whether or not they count as values. -/
def cipherOf (s : State) : Cipher := ⟨s.a.val, s.b.val, s.r1.val, s.r2.val, s.r3.val, s.k1.val, s.k2.val⟩

/-- A register that holds no value has its reset contents, so that two states that differ in nothing the spec names are equal. -/
abbrev Canonical {α : Type} (contents : α) (r : Reg α) : Prop := r.written = false → r.val = contents

/-- The invariant of the core. -/
structure Inv (s : State) : Prop where
  /-- "`fault_code != NONE` if and only if `phase = FAULTED`" (R207, R213). -/
  fault_iff_faulted : s.faultCode ≠ .none ↔ s.phase = .faulted
  /-- `ks_valid = 1` implies READY or FAULTED (R213). -/
  valid_not_uninit : s.ksValid = true → s.phase ≠ .uninit
  /-- `ks_out` holds a value exactly while ks_valid is 1 (R208, R211). -/
  valid_iff_value : s.ksOut.written = s.ksValid
  /-- In READY every cipher register holds a value: no command reads one that does not (R211, R629). -/
  ready_written : s.phase = .ready → CipherWritten s
  /-- In UNINIT none does (R218, R632). -/
  uninit_blank : s.phase = .uninit → CipherBlank s
  /-- INIT writes all seven, and nothing but reset takes their values away. -/
  all_or_none : CipherWritten s ∨ CipherBlank s
  /-- Contents behind "no value" are the reset contents (log entries 1 and 2). -/
  canonical : Canonical (.fill 0) s.a ∧ Canonical (.fill 0) s.b ∧ Canonical (.fill 0) s.r1 ∧ Canonical (.fill 0) s.r2 ∧
    Canonical (.fill 0) s.r3 ∧ Canonical (.fill 0) s.k1 ∧ Canonical (.fill 0) s.k2 ∧ Canonical 0 s.ksOut

/-- A good state: one in which commands still run (R704: "A run that reaches FAULTED is never a successful end of run"). -/
abbrev Running (s : State) : Prop := s.phase ≠ .faulted

/-- `n` NEXT commands one after the other, as the meaning of NEXT runs them (R630, R605). -/
def nextTimes (n : Nat) (s : State) : Result :=
  match n with
  | 0 => .next s
  | n + 1 =>
    match exec .next s with
    | .next t => nextTimes n t
    | .fault f => .fault f
    | .refused x => .refused x

/-- The cipher after `n` generations. -/
def generations (cfg : Config) (n : Nat) (c : Cipher) : Cipher :=
  match n with
  | 0 => c
  | n + 1 => generations cfg n (genBlock cfg c).2

end Sys2Proof
end

