-- ==== Sys2Proof/Certificates/Slice0/Obligations.lean ====
section
/-! DEFINITION. The statements for the provers, one per rule or group of rules of the spec. Each docstring names the rule. -/

open Sys2Proof Sys2Proof.Machine

/-! ### Reset and the invariant -/

/-- R218: what reset leaves. UNINIT, no fault, ks_valid 0, and a read of A, B, R1, R2, R3, K1, K2 or ks_out finds no value. -/
def Obligations.ResetState : Prop :=
  State.reset.phase = .uninit ∧ State.reset.faultCode = .none ∧ State.reset.ksValid = false ∧
  regRead .a State.reset.a = .error (.noValue .a) ∧ regRead .b State.reset.b = .error (.noValue .b) ∧
  regRead .r1 State.reset.r1 = .error (.noValue .r1) ∧ regRead .r2 State.reset.r2 = .error (.noValue .r2) ∧
  regRead .r3 State.reset.r3 = .error (.noValue .r3) ∧ regRead .k1 State.reset.k1 = .error (.noValue .k1) ∧
  regRead .k2 State.reset.k2 = .error (.noValue .k2) ∧ regRead .ksOut State.reset.ksOut = .error (.noValue .ksOut)

/-- R800: with `rst` asserted, a step in any phase and with any command word on the port leaves UNINIT, no fault, ks_valid 0 and no
value in any cipher register or in ks_out; and from FAULTED no other step has a next state. -/
def Obligations.ResetFromEveryPhase : Prop :=
  (∀ s : State, s.ports.rst = true → ∃ t, step s = .next t ∧
    CipherBlank t ∧ t.phase = .uninit ∧ t.faultCode = .none ∧ t.ksOut.written = false ∧ t.ksValid = false) ∧
  (∀ s t : State, s.phase = .faulted → step s = .next t → s.ports.rst = true)

/-- The invariant holds right after reset. -/
def Obligations.ResetMeetsInvariant : Prop := Inv State.reset

/-- The invariant (R207, R208, R211, R213) is kept by every step, from every state that meets it. Its last clause, on the contents
behind "no value", is the model's own (log entries 1 and 2). -/
def Obligations.StepKeepsInvariant : Prop := ∀ s t : State, Inv s → step s = .next t → Inv t

/-- R211: in a state that meets the invariant no command and no reset ever reads a register that holds no value; the one stop of
a step is "no step" in FAULTED. -/
def Obligations.StepNeverReadsNoValue : Prop :=
  ∀ s : State, Inv s →
    (∃ t, step s = .next t) ∨ (step s = .fault .noStepInFaulted ∧ s.phase = .faulted ∧ s.ports.rst = false)

/-! ### Decoding and the step -/

/-- A step runs the decoded instruction: with `rst` deasserted and a command word that decodes to `i`, the step is `exec i`, and
after a next state the host drives its next transaction (the model's choice, log entry 5); a stop of `exec` is the stop of the
step. -/
def Obligations.StepRunsDecoded : Prop :=
  ∀ (s : State) (i : Instr), s.ports.rst = false → decode s.ports.cmdIn = .ok i →
    (∀ t, exec i s = .next t → step s = .next (hostAdvance t)) ∧
    (∀ f, exec i s = .fault f → step s = .fault f)

/-- Every instruction has a meaning, in every state: no instruction and no step is ever refused. -/
def Obligations.NothingIsRefused : Prop :=
  ∀ (s : State) (x : Refusal), (∀ i : Instr, exec i s ≠ .refused x) ∧ step s ≠ .refused x

/-- R313 as the model takes it (log entry 5): after a step with a next state, the ports carry the host's next transaction, in the
order of its list, or the idle bus when there is none. -/
def Obligations.HostOrder : Prop :=
  ∀ s t : State, step s = .next t →
    (∀ (p : Ports) (rest : List Ports), s.pending = p :: rest → t.ports = p ∧ t.pending = rest) ∧
    (s.pending = [] → t.ports = .idle ∧ t.pending = [])

/-- Decode and encode agree on every instruction and every command word: an instruction the host can issue has exactly the words
that decode to it, and an internal operation has none (R403, R407). -/
def Obligations.DecodeEncodeAgree : Prop :=
  (∀ i : Instr, WellFormed i → ∃ w, encode i = some w ∧ decode w = .ok i) ∧
  (∀ (w : U8) (i : Instr), decode w = .ok i → WellFormed i ∧ encode i = some w) ∧
  (∀ i : Instr, ¬ WellFormed i → encode i = none ∧ ∀ w : U8, decode w ≠ .ok i)

/-- R403: the opcode map over all 256 words, and the table's INIT row with match 0x01, mask 0xFB and `alt` = bit 2. -/
def Obligations.OpcodeMap : Prop :=
  decode 0x00 = .ok .nop ∧ decode 0x01 = .ok (.init false) ∧ decode 0x05 = .ok (.init true) ∧ decode 0x02 = .ok .next ∧
  (∀ w : U8, w ≠ 0x00 → w ≠ 0x01 → w ≠ 0x05 → w ≠ 0x02 → ∃ r, decode w = .error r) ∧
  (∀ w : U8, w &&& 0xFB = 0x01 → decode w = .ok (.init (w.getLsbD 2)))

/-- The words of the opcode table's rows, bit 0 first, decode to their rows; 0x03, 0x04, 0x06, 0x08 and 0x80 are reserved, each by
the clause of R402 that says so. -/
def Obligations.TableWords : Prop :=
  decodeTableWord 8 0b00000000 = some .nop ∧ decodeTableWord 8 0b00000001 = some (.init false) ∧
  decodeTableWord 8 0b00000101 = some (.init true) ∧ decodeTableWord 8 0b00000010 = some .next ∧
  decode 0b00000011 = .error .opReserved ∧ decode 0b00000100 = .error .altWithoutInit ∧
  decode 0b00000110 = .error .altWithoutInit ∧ decode 0b00001000 = .error .rsvNonzero ∧
  decode 0b10000000 = .error .rsvNonzero

/-! ### Operations that only return a value -/

/-- Each internal operation that writes no register completes when run alone, in every state and phase (KS_COMBINE in every state
in which B, R1 and R2 hold values; R3 need not): it puts its result on the result lines and changes nothing else. That the result
of an operation run alone is put there is the model's choice (log entry 4); the values are those of the rules' functions. -/
def Obligations.UnitOperationsComplete : Prop :=
  ∀ s : State,
    (∀ v, exec (.mulxA v) s = .next { s with unitOut := .half (mulxA v) }) ∧
    (∀ v, exec (.mulxInvA v) s = .next { s with unitOut := .half (mulxInvA v) }) ∧
    (∀ v, exec (.mulxB v) s = .next { s with unitOut := .half (mulxB v) }) ∧
    (∀ v, exec (.mulxInvB v) s = .next { s with unitOut := .half (mulxInvB v) }) ∧
    (∀ x, exec (.sbox x) s = .next { s with unitOut := .byte (sbox x) }) ∧
    (∀ w, exec (.xtime32 w) s = .next { s with unitOut := .word (xtime32 w) }) ∧
    (∀ w, exec (.mixcol32 w) s = .next { s with unitOut := .word (mixcol32 w) }) ∧
    (∀ x k, exec (.aesr x k) s = .next { s with unitOut := .quad (aesr x k) }) ∧
    (∀ x, exec (.sigma x) s = .next { s with unitOut := .quad (sigma x) }) ∧
    (∀ i, s.b.written = true → s.r1.written = true → s.r2.written = true →
      exec (.ksCombine i) s = .next { s with unitOut := .word (ksCombine s.b.val s.r1.val s.r2.val i) })

/-! ### Field multipliers -/

/-- R504 to R507: each of the four multipliers is the value shifted by one place with its constant XORed in when the bit shifted out
was set, with the corner cases and examples of the rules. -/
def Obligations.FieldMultiplierValues : Prop :=
  (∀ v : U16,
    mulxA v = (if v.getLsbD 15 then (v <<< 1) ^^^ 0x990F#16 else v <<< 1) ∧
    mulxInvA v = (if v.getLsbD 0 then (v >>> 1) ^^^ 0xCC87#16 else v >>> 1) ∧
    mulxB v = (if v.getLsbD 15 then (v <<< 1) ^^^ 0xC963#16 else v <<< 1) ∧
    mulxInvB v = (if v.getLsbD 0 then (v >>> 1) ^^^ 0xE4B1#16 else v >>> 1)) ∧
  (mulxA 0x0000 = 0x0000 ∧ mulxA 0x8000 = 0x990F ∧ mulxA 0xFFFF = 0x66F1 ∧ mulxA 0x7FFF = 0xFFFE ∧ mulxA 0x8001 = 0x990D) ∧
  (mulxInvA 0x0000 = 0x0000 ∧ mulxInvA 0x0001 = 0xCC87 ∧ mulxInvA 0xFFFF = 0xB378 ∧ mulxInvA 0x8000 = 0x4000 ∧
    mulxInvA 0x8001 = 0x8C87) ∧
  (mulxB 0x0000 = 0x0000 ∧ mulxB 0x8000 = 0xC963 ∧ mulxB 0xFFFF = 0x369D ∧ mulxB 0x8001 = 0xC961) ∧
  (mulxInvB 0x0000 = 0x0000 ∧ mulxInvB 0x0001 = 0xE4B1 ∧ mulxInvB 0xFFFF = 0x9B4E ∧ mulxInvB 0x8001 = 0xA4B1)

/-- R508: (a) the two instances of a register undo each other, (b) all four are linear over XOR, (c) they take 0 to 0. -/
def Obligations.FieldMultiplierLaws : Prop :=
  (∀ v : U16, mulxInvA (mulxA v) = v ∧ mulxA (mulxInvA v) = v ∧ mulxInvB (mulxB v) = v ∧ mulxB (mulxInvB v) = v) ∧
  (Function.Bijective mulxA ∧ Function.Bijective mulxInvA ∧ Function.Bijective mulxB ∧ Function.Bijective mulxInvB) ∧
  (∀ v w : U16, mulxA (v ^^^ w) = mulxA v ^^^ mulxA w ∧ mulxInvA (v ^^^ w) = mulxInvA v ^^^ mulxInvA w ∧
    mulxB (v ^^^ w) = mulxB v ^^^ mulxB w ∧ mulxInvB (v ^^^ w) = mulxInvB v ^^^ mulxInvB w) ∧
  (mulxA 0 = 0 ∧ mulxInvA 0 = 0 ∧ mulxB 0 = 0 ∧ mulxInvB 0 = 0)

/-- R509: the branch-free forms, computed in a width where nothing is cut off before the mask, equal R500 and R501. -/
def Obligations.FieldBranchFree : Prop :=
  ∀ v c : U16,
    (mulx v c).setWidth 32 =
      ((v.setWidth 32 <<< 1) &&& 0xFFFF#32) ^^^
        (c.setWidth 32 &&& (0#32 - (BitVec.ofBool (v.getLsbD 15)).setWidth 32) &&& 0xFFFF#32) ∧
    (mulxInv v c).setWidth 32 =
      (v.setWidth 32 >>> 1) ^^^ (c.setWidth 32 &&& (0#32 - (BitVec.ofBool (v.getLsbD 0)).setWidth 32) &&& 0xFFFF#32)

/-! ### Block transform -/

/-- R521: SBOX is the table's entry at index `16h + l`, which is there for every byte, with the rule's corner cases; and it is a
bijection on bytes (R520). -/
def Obligations.SboxValues : Prop :=
  (∀ x : U8, ∃ row, sboxRows[x.toNat / 16]? = some row ∧ row[x.toNat % 16]? = some (sbox x)) ∧
  Function.Bijective sbox ∧
  (sbox 0x00 = 0x63 ∧ sbox 0xFF = 0x16 ∧ sbox 0x01 = 0x7C ∧ sbox 0x52 = 0x00 ∧ sbox 0x53 = 0xED)

/-- R520: the table meets its algebraic definition: every byte `a` has an inverse `b` in GF(2^8) modulo 0x11B (0 for 0), and the
entry is the affine image of `b`. The product is written out as eight doublings, each XORed in under one bit of `b`. -/
def Obligations.SboxIsAffineInverse : Prop :=
  ∀ a : U8, ∃ b : U8,
    (a = 0 ∧ b = 0 ∨
      (List.range 8).foldl (fun acc k => if b.getLsbD k then acc ^^^ xtime^[k] a else acc) 0 = 1) ∧
    sbox a = b ^^^ b.rotateLeft 1 ^^^ b.rotateLeft 2 ^^^ b.rotateLeft 3 ^^^ b.rotateLeft 4 ^^^ 0x63

/-- R522: XTIME32 is the masked formula; lane by lane it is `xtime` of that lane's byte alone, so no carry crosses a lane; with the corner cases and the example of the rule. -/
def Obligations.Xtime32Lanes : Prop :=
  (∀ w : U32, xtime32 w = ((w <<< 1) &&& 0xFEFEFEFE#32) ^^^ (((w >>> 7) &&& 0x01010101#32) * 0x1B#32)) ∧
  (∀ (w : U32) (k : Fin 4), byteAt (xtime32 w) k.val =
    (byteAt w k.val <<< 1) ^^^ (if (byteAt w k.val).getLsbD 7 then 0x1B#8 else 0x00#8)) ∧
  (xtime32 0 = 0 ∧ xtime32 0x80808080 = 0x1B1B1B1B ∧ xtime32 0xFFFFFFFF = 0xE5E5E5E5 ∧ xtime32 0x01020380 = 0x0204061B ∧
    xtime32 0x57000000 = 0xAE000000)

/-- R523: MIXCOL32 is the composition of the rule; a word of four equal bytes is a fixed
point; with the corner cases and the example of the rule. -/
def Obligations.Mixcol32Values : Prop :=
  (∀ w : U32, mixcol32 w = w ^^^ (rotl32 w 16 ^^^ xtime32 w) ^^^ rotl32 (rotl32 w 16 ^^^ xtime32 w) 8) ∧
  (∀ b : U8, mixcol32 (le32 b b b b) = le32 b b b b) ∧
  (mixcol32 0 = 0 ∧ mixcol32 0x01010101 = 0x01010101 ∧ mixcol32 0x63636363 = 0x63636363 ∧ mixcol32 0xDB455313 = 0xBCA14D8E)

/-- R524: word `j` of AESR's result is MIXCOL32 of the word gathered from the substituted
bytes 4j, 4j+5, 4j+10, 4j+15 (modulo 16) at shifts 24, 0, 8, 16, XORed with word `j` of the round key; with the corner cases and
the example of the rule. -/
def Obligations.AesrValues : Prop :=
  (∀ (x k : Quad) (j : Fin 4), (aesr x k).get j =
    mixcol32 (((sbox (quadByte x (Fin.ofNat 16 (4 * j.val)))).setWidth 32 <<< 24) |||
      (sbox (quadByte x (Fin.ofNat 16 (4 * j.val + 5)))).setWidth 32 |||
      ((sbox (quadByte x (Fin.ofNat 16 (4 * j.val + 10)))).setWidth 32 <<< 8) |||
      ((sbox (quadByte x (Fin.ofNat 16 (4 * j.val + 15)))).setWidth 32 <<< 16)) ^^^ k.get j) ∧
  (∀ k : Quad, aesr (.fill 0) (.fill 0) = .fill 0x63636363 ∧ aesr (.fill 0) k = (Quad.fill 0x63636363).xor k) ∧
  aesr (.fill 0xFFFFFFFF) (.fill 0) = .fill 0x16161616 ∧
  aesr ⟨0x03020100, 0x07060504, 0x0b0a0908, 0x0f0e0d0c⟩ (.fill 0) = ⟨0x455c6a6a, 0x51336d2c, 0x615dd9b0, 0x5c219c27⟩

/-- R525: AESR equals one AES round with little-endian column packing: with `a r` the substituted byte of row `r` of column
`(j+r) mod 4`, byte `r` of column `j` of the result is `2*a_r ^ 3*a_(r+1) ^ a_(r+2) ^ a_(r+3)` XORed with the round key's byte,
where `2*x` is `xtime x` and `3*x` is `xtime x ^ x`; the gathered word of R524 is `le32(a_1, a_2, a_3, a_0)`; and the FIPS-197
round of 95 section 2.2. -/
def Obligations.AesrIsAesRound : Prop :=
  (∀ (x k : Quad) (j r : Fin 4),
    let a : Nat → U8 := fun r => sbox (quadByte x (Fin.ofNat 16 (4 * ((j.val + r % 4) % 4) + r % 4)))
    byteAt ((aesr x k).get j) r.val =
      (xtime (a r.val) ^^^ (xtime (a (r.val + 1)) ^^^ a (r.val + 1)) ^^^ a (r.val + 2) ^^^ a (r.val + 3)) ^^^
        byteAt (k.get j) r.val ∧
    gather (subByte x) j = le32 (a 1) (a 2) (a 3) (a 0)) ∧
  aesr ⟨0xbee33d19, 0x2be2f4a0, 0x2a8dc69a, 0x0848f8e9⟩ ⟨0x17fefaa0, 0xb12c5488, 0x3939a323, 0x05766c2a⟩ =
    ⟨0xf27f9ca4, 0x2b359f68, 0x43ea5b6b, 0x49506a02⟩

/-- R526: (a) the key enters by the final XOR only; (b) with the key fixed AESR is a bijection; (c) it reads no register and has no
state: run alone in any two states it puts out the same value. -/
def Obligations.AesrLaws : Prop :=
  (∀ x k : Quad, aesr x k = (aesr x (.fill 0)).xor k) ∧
  (∀ k : Quad, Function.Bijective fun x => aesr x k) ∧
  (∀ (x k : Quad) (s s' t t' : State), exec (.aesr x k) s = .next t → exec (.aesr x k) s' = .next t' → t.unitOut = t'.unitOut)

/-! ### Permutation and byte order -/

/-- R541 with the table of R540: output byte `n` is input byte `SIGMA_TABLE[n]`, and
`SIGMA_TABLE[4r + c] = 4c + r`; equal bytes are a fixed point; the rule's example. -/
def Obligations.SigmaValues : Prop :=
  (∀ (x : Quad) (n : Fin 16), quadByte (sigma x) n = quadByte x (sigmaIndex n)) ∧
  (∀ r c : Fin 4, (sigmaIndex (Fin.ofNat 16 (4 * r.val + c.val))).val = 4 * c.val + r.val) ∧
  (∀ b : U8, sigma (.fill (le32 b b b b)) = .fill (le32 b b b b)) ∧ sigma (.fill 0) = .fill 0 ∧
  sigma ⟨0x03020100, 0x07060504, 0x0b0a0908, 0x0f0e0d0c⟩ = ⟨0x0c080400, 0x0d090501, 0x0e0a0602, 0x0f0b0703⟩

/-- R542: SIGMA is a bijection, its own inverse, linear over XOR, and commutes with XOR by a byte-uniform constant. -/
def Obligations.SigmaLaws : Prop :=
  Function.Bijective sigma ∧
  ((∀ x : Quad, sigma (sigma x) = x) ∧ ∀ n : Fin 16, sigmaIndex (sigmaIndex n) = n) ∧
  (∀ x y : Quad, sigma (x.xor y) = (sigma x).xor (sigma y)) ∧
  (∀ (x : Quad) (b : U8), sigma (x.xor (.fill (le32 b b b b))) = (sigma x).xor (.fill (le32 b b b b)))

/-- R304 and R303: a 128-bit value of four words is its sixteen bytes, byte `4i+j` being bits `8j+7:8j` of word `i`, and the two
directions undo each other. -/
def Obligations.QuadBytesRoundTrip : Prop :=
  (∀ (x : Quad) (i j : Fin 4), quadByte x (Fin.ofNat 16 (4 * i.val + j.val)) = (x.get i).extractLsb' (8 * j.val) 8) ∧
  (∀ x : Quad, quadOfBytes (quadByte x) = x) ∧
  (∀ (t : Fin 16 → U8) (n : Fin 16), quadByte (quadOfBytes t) n = t n)

/-- R602: byte `4i+j` of the block is bits `8j+7:8j` of lane `i`. -/
def Obligations.BlockSerialization : Prop :=
  ∀ (lane : Quad) (i j : Fin 4), byteAt (serialize lane) (4 * i.val + j.val) = (lane.get i).extractLsb' (8 * j.val) 8

/-- R307 (with R302 and R306): word `2i` of the block, as the fold reads it, is the low half of lane `i`, and word `2i+1` its high
half. -/
def Obligations.FoldWordsOfLanes : Prop :=
  ∀ (lane : Quad) (i : Fin 4),
    le16At (serialize lane) (2 * (2 * i.val)) = (lane.get i).extractLsb' 0 16 ∧
    le16At (serialize lane) (2 * (2 * i.val + 1)) = (lane.get i).extractLsb' 16 16

/-! ### Shift registers -/

/-- R560: LFSR_STEP run alone completes when A and B hold values: both words shift one place down, word 15 is the tap word of the
words before the step, and nothing else changes; with the corner cases and the example of the rule. -/
def Obligations.LfsrStepResult : Prop :=
  (∀ s : State, s.a.written = true → s.b.written = true →
    ∃ t, exec .lfsrStep s = .next t ∧ t = { s with a := t.a, b := t.b } ∧ t.a.written = true ∧ t.b.written = true ∧
      (∀ k : Fin 16, k.val < 15 → t.a.val.get k = s.a.val.get (k + 1) ∧ t.b.val.get k = s.b.val.get (k + 1)) ∧
      t.a.val.get 15 = mulxA (s.a.val.get 0) ^^^ s.a.val.get 1 ^^^ mulxInvA (s.a.val.get 8) ^^^ s.b.val.get 0 ∧
      t.b.val.get 15 = mulxB (s.b.val.get 0) ^^^ s.b.val.get 3 ^^^ mulxInvB (s.b.val.get 8) ^^^ s.a.val.get 0) ∧
  lfsrStep ⟨.fill 0, .fill 0⟩ = ⟨.fill 0, .fill 0⟩ ∧
  (let edge : Lfsr := Lfsr.ofFn fun k => if k = 0 then 0x8000 else if k = 8 then 0x0001 else 0
   tapU ⟨edge, edge⟩ = 0xD588 ∧ tapV ⟨edge, edge⟩ = 0xADD2) ∧
  (tapU ⟨.fill 0xFFFF, .fill 0xFFFF⟩ = 0xD589 ∧ tapV ⟨.fill 0xFFFF, .fill 0xFFFF⟩ = 0xADD3) ∧
  (let p : LfsrPair := ⟨Lfsr.ofFn fun k => BitVec.ofNat 16 k.val, Lfsr.ofFn fun k => BitVec.ofNat 16 (0x1000 + k.val)⟩
   tapU p = 0x1005 ∧ tapV p = 0x3807)

/-- R561: LFSR_ADVANCE run alone completes when A and B hold values: it is one LFSR_STEP or eight, as the parameter says, and
nothing but A and B changes; the rule's example for eight. -/
def Obligations.LfsrAdvanceResult : Prop :=
  (∀ s : State, s.a.written = true → s.b.written = true →
    (s.cfg.lfsrStepsPerBlock = .one →
      exec .lfsrAdvance s = .next (writePair s (lfsrStep ⟨s.a.val, s.b.val⟩))) ∧
    (s.cfg.lfsrStepsPerBlock = .eight →
      exec .lfsrAdvance s = .next (writePair s (lfsrStep^[8] ⟨s.a.val, s.b.val⟩)))) ∧
  (∀ (cfg : Config) (p : LfsrPair) (k : Fin 8), cfg.lfsrStepsPerBlock = .eight →
    (lfsrAdvance cfg p).a.get (Fin.ofNat 16 k.val) = p.a.get (Fin.ofNat 16 (k.val + 8)) ∧
    (lfsrAdvance cfg p).b.get (Fin.ofNat 16 k.val) = p.b.get (Fin.ofNat 16 (k.val + 8))) ∧
  lfsrAdvance .default
      ⟨Lfsr.ofFn fun k => BitVec.ofNat 16 k.val, Lfsr.ofFn fun k => BitVec.ofNat 16 (0x1000 + k.val)⟩ =
    ⟨⟨0x0008, 0x0009, 0x000a, 0x000b, 0x000c, 0x000d, 0x000e, 0x000f,
      0x1005, 0xdc82, 0x1000, 0xdc83, 0x100f, 0xdc88, 0x100a, 0xdc81⟩,
     ⟨0x1008, 0x1009, 0x100a, 0x100b, 0x100c, 0x100d, 0x100e, 0x100f,
      0x3807, 0xdcb2, 0x3806, 0xdcb7, 0x380d, 0xdcb0, 0x3804, 0xdcb5⟩⟩

/-- R562: with eight steps per block LFSR_ADVANCE is the parallel form: words 8 to 15 move down, and the eight fresh words are tap
words of the pair before the advance. -/
def Obligations.LfsrParallelForm : Prop :=
  ∀ (cfg : Config) (p : LfsrPair) (k : Fin 16), cfg.lfsrStepsPerBlock = .eight →
    let w : Nat → Fin 16 := Fin.ofNat 16
    (lfsrAdvance cfg p).a.get k =
      (if k.val < 8 then p.a.get (w (k.val + 8))
       else mulxA (p.a.get (w (k.val - 8))) ^^^ p.a.get (w (k.val - 7)) ^^^ mulxInvA (p.a.get k) ^^^
        p.b.get (w (k.val - 8))) ∧
    (lfsrAdvance cfg p).b.get k =
      (if k.val < 8 then p.b.get (w (k.val + 8))
       else mulxB (p.b.get (w (k.val - 8))) ^^^ p.b.get (w (k.val - 5)) ^^^ mulxInvB (p.b.get k) ^^^
        p.a.get (w (k.val - 8)))

/-- R563: after a step every word but the last is the next word of the old register; after an advance every word but the last
`LFSR_STEPS_PER_BLOCK` is the word that many places up. For both values of the parameter. -/
def Obligations.LfsrShiftProperty : Prop :=
  (∀ (p : LfsrPair) (k : Fin 16), k.val + 1 < 16 →
    (lfsrStep p).a.get k = p.a.get (Fin.ofNat 16 (k.val + 1)) ∧
    (lfsrStep p).b.get k = p.b.get (Fin.ofNat 16 (k.val + 1))) ∧
  (∀ (cfg : Config) (p : LfsrPair) (k : Fin 16), k.val + cfg.lfsrStepsPerBlock.toNat < 16 →
    (lfsrAdvance cfg p).a.get k = p.a.get (Fin.ofNat 16 (k.val + cfg.lfsrStepsPerBlock.toNat)) ∧
    (lfsrAdvance cfg p).b.get k = p.b.get (Fin.ofNat 16 (k.val + cfg.lfsrStepsPerBlock.toNat)))

/-- R565, first part: LFSR_STEP and LFSR_ADVANCE are linear over XOR, for both values of the parameter. -/
def Obligations.LfsrLinear : Prop :=
  (∀ p q : LfsrPair, lfsrStep ⟨p.a.xor q.a, p.b.xor q.b⟩ =
    ⟨(lfsrStep p).a.xor (lfsrStep q).a, (lfsrStep p).b.xor (lfsrStep q).b⟩) ∧
  (∀ (cfg : Config) (p q : LfsrPair), lfsrAdvance cfg ⟨p.a.xor q.a, p.b.xor q.b⟩ =
    ⟨(lfsrAdvance cfg p).a.xor (lfsrAdvance cfg q).a, (lfsrAdvance cfg p).b.xor (lfsrAdvance cfg q).b⟩)

/-- R565, second part: both are bijections on the register pair, because `b ↦ MULX_A(MULX_B(b)) ^ b` is one on 16-bit words. -/
def Obligations.LfsrBijective : Prop :=
  (Function.Bijective fun b : U16 => mulxA (mulxB b) ^^^ b) ∧
  Function.Bijective lfsrStep ∧
  (∀ cfg : Config, Function.Bijective (lfsrAdvance cfg))

/-! ### FSM -/

/-- R582 with R580 and R581: FSM_ADVANCE run alone completes when A, R1, R2, R3, K1 and K2 hold values (B need not), and updates
R1, R2 and R3 at once from values before the step; nothing else changes. -/
def Obligations.FsmAdvanceResult : Prop :=
  ∀ s : State, s.a.written = true → s.r1.written = true → s.r2.written = true → s.r3.written = true →
    s.k1.written = true → s.k2.written = true →
    exec .fsmAdvance s = .next { s with
      r1 := regWrite (sigma (Quad.ofFn fun i =>
        (u32OfHalves (s.a.val.get (Fin.ofNat 16 (2 * i.val + 1))) (s.a.val.get (Fin.ofNat 16 (2 * i.val))) ^^^
          s.r3.val.get i) + s.r2.val.get i))
      r2 := regWrite (aesr s.r1.val s.k1.val)
      r3 := regWrite (aesr s.r2.val s.k2.val) }

/-- The corner cases and the example of R581: the all-zero FSM, the sum that wraps, and the worked example. -/
def Obligations.FsmAdvanceExamples : Prop :=
  fsmAdvance (.fill 0) (.fill 0) (.fill 0) ⟨.fill 0, .fill 0, .fill 0⟩ =
    ⟨.fill 0, .fill 0x63636363, .fill 0x63636363⟩ ∧
  (∀ (a : Lfsr) (r2 r3 : Quad) (i : Fin 4), t2 a i ^^^ r3.get i = 0xFFFFFFFF → r2.get i = 1 → (fsmSum a r2 r3).get i = 0) ∧
  fsmAdvance (Lfsr.ofFn fun k => BitVec.ofNat 16 k.val) (.fill 0) (.fill 0)
      ⟨⟨0x11111111, 0x22222222, 0x33333333, 0x44444444⟩, ⟨0xffffffff, 0x80000000, 0x00000001, 0x00000000⟩,
       ⟨0x01010101, 0, 0, 0xffffffff⟩⟩ =
    ⟨⟨0xf9050200, 0xff000001, 0xf8050300, 0xff008001⟩, ⟨0xfba1fa69, 0x69fba1fa, 0xfa69fba1, 0xa1fa69fb⟩,
     ⟨0xfc161689, 0x89fc1616, 0x707f4d86, 0x161689fc⟩⟩

/-! ### Combiner and generation -/

/-- R601 with R600: lane `i` is `(T1_i + R1[i]) ^ R2[i]` modulo 2^32, with `T1_i = u32(B[2i+9], B[2i+8])`; with the corner cases
and the example of the rule. -/
def Obligations.KsCombineValues : Prop :=
  (∀ (b : Lfsr) (r1 r2 : Quad) (i : Fin 4), ksCombine b r1 r2 i =
    (u32OfHalves (b.get (Fin.ofNat 16 (2 * i.val + 9))) (b.get (Fin.ofNat 16 (2 * i.val + 8))) + r1.get i) ^^^ r2.get i) ∧
  (combine 0xFFFFFFFF 1 0 = 0 ∧ combine 0xFFFFFFFF 0xFFFFFFFF 0 = 0xFFFFFFFE ∧ combine 0 0 0 = 0) ∧
  (∀ (b : Lfsr) (r1 r2 : Quad), b.get 9 = 0x1234 → b.get 8 = 0x5678 → r1.get 0 = 0x0fedcba9 → r2.get 0 = 0xffffffff →
    ksCombine b r1 r2 0 = 0xddddddde)

/-- R603 and R604: GEN_BLOCK run alone completes when all seven cipher registers hold values. Its block is read from B, R1 and R2 before any
update; R1, R2, R3 come from the FSM's simultaneous form on values before the step; A and B come from LFSR_ADVANCE on the pair
before the step; K1, K2 and everything else stay. For both values of the parameter. That the block of a GEN_BLOCK run alone is put
on the result lines is the model's choice (log entry 4). -/
def Obligations.GenBlockResult : Prop :=
  ∀ s : State, CipherWritten s →
    ∃ t, exec .genBlock s = .next t ∧
      t.unitOut = .block (serialize (Quad.ofFn fun i => (t1 s.b.val i + s.r1.val.get i) ^^^ s.r2.val.get i)) ∧
      t.r1 = regWrite (sigma (Quad.ofFn fun i => (t2 s.a.val i ^^^ s.r3.val.get i) + s.r2.val.get i)) ∧
      t.r2 = regWrite (aesr s.r1.val s.k1.val) ∧
      t.r3 = regWrite (aesr s.r2.val s.k2.val) ∧
      t.a = regWrite (lfsrAdvance s.cfg ⟨s.a.val, s.b.val⟩).a ∧
      t.b = regWrite (lfsrAdvance s.cfg ⟨s.a.val, s.b.val⟩).b ∧
      t = { s with a := t.a, b := t.b, r1 := t.r1, r2 := t.r2, r3 := t.r3, unitOut := t.unitOut }

/-! ### Initialization -/

/-- R622 with R623: LOAD_KEY_IV run alone completes in every state; A takes the nonce and the low half of the key, B takes zero (or
the alternate constant) and the high half, each as little-endian 16-bit words; nothing else changes; the rule's example. -/
def Obligations.LoadKeyIvResult : Prop :=
  (∀ (key : U256) (nonce : U128) (alt : Bool) (s : State),
    exec (.loadKeyIv key nonce alt) s = .next { s with
      a := regWrite (Lfsr.ofFn fun k =>
        if k.val < 8 then u16OfBytes (byteAt nonce (2 * k.val + 1)) (byteAt nonce (2 * k.val))
        else u16OfBytes (byteAt key (2 * (k.val - 8) + 1)) (byteAt key (2 * (k.val - 8))))
      b := regWrite (Lfsr.ofFn fun k =>
        if k.val < 8 then
          (if alt then ([0x6C41, 0x7865, 0x6B45, 0x2064, 0x694A, 0x676E, 0x6854, 0x6D6F] : List U16).getD k.val 0 else 0)
        else u16OfBytes (byteAt key (2 * (k.val - 8) + 17)) (byteAt key (2 * (k.val - 8) + 16))) }) ∧
  loadKeyIv 0 0 false = ⟨.fill 0, .fill 0⟩ ∧
  (∀ (key : U256) (nonce : U128) (alt : Bool), byteAt key 0 = 0x50 → byteAt key 1 = 0x51 →
    (loadKeyIv key nonce alt).a.get 8 = 0x5150)

/-- R625: ROUND_KEY_DERIVE run alone completes in every state; under KEY_DERIVED K1 takes the first sixteen key bytes and K2 the
last sixteen, as little-endian 32-bit words; under ZERO both are 0; nothing else changes; a zero key gives zero either way. -/
def Obligations.RoundKeyDeriveResult : Prop :=
  (∀ (key : U256) (s : State), s.cfg.roundKeySource = .keyDerived →
    exec (.roundKeyDerive key) s = .next { s with
      k1 := regWrite (Quad.ofFn fun j => le32 (byteAt key (4 * j.val)) (byteAt key (4 * j.val + 1))
        (byteAt key (4 * j.val + 2)) (byteAt key (4 * j.val + 3)))
      k2 := regWrite (Quad.ofFn fun j => le32 (byteAt key (16 + 4 * j.val)) (byteAt key (17 + 4 * j.val))
        (byteAt key (18 + 4 * j.val)) (byteAt key (19 + 4 * j.val))) }) ∧
  (∀ (key : U256) (s : State), s.cfg.roundKeySource = .zero →
    exec (.roundKeyDerive key) s = .next { s with k1 := regWrite (.fill 0), k2 := regWrite (.fill 0) }) ∧
  (∀ cfg : Config, roundKeyDerive cfg 0 = (.fill 0, .fill 0)) ∧
  (∀ key : U256, byteAt key 0 = 0x50 → byteAt key 1 = 0x51 → byteAt key 2 = 0x52 → byteAt key 3 = 0x53 →
    ((roundKeyDerive .default key).1).get 0 = 0x53525150)

/-- R627: WARMUP_FOLD run alone completes when A holds a value; A[0..8) stays and A[8+j] takes the XOR of the block's word `j`;
nothing but A changes. -/
def Obligations.WarmupFoldResult : Prop :=
  ∀ (z : U128) (s : State), s.a.written = true →
    ∃ t, exec (.warmupFold z) s = .next t ∧ t = { s with a := t.a } ∧ t.a.written = true ∧
      (∀ j : Fin 8, t.a.val.get (Fin.ofNat 16 j.val) = s.a.val.get (Fin.ofNat 16 j.val)) ∧
      (∀ j : Fin 8, t.a.val.get (Fin.ofNat 16 (8 + j.val)) =
        s.a.val.get (Fin.ofNat 16 (8 + j.val)) ^^^ u16OfBytes (byteAt z (2 * j.val + 1)) (byteAt z (2 * j.val)))

/-- R628: KEY_INJECT run alone completes when R1 holds a value, for either key half; R1[j] takes the XOR of that half's word `j`, and
nothing but R1 changes; under KEY_DERIVED the injected words are those of K1 and K2. -/
def Obligations.KeyInjectResult : Prop :=
  (∀ (key : U256) (s : State), s.r1.written = true →
    exec (.keyInject key .low) s = .next { s with r1 := regWrite (Quad.ofFn fun j => s.r1.val.get j ^^^
      le32 (byteAt key (4 * j.val)) (byteAt key (4 * j.val + 1)) (byteAt key (4 * j.val + 2)) (byteAt key (4 * j.val + 3))) } ∧
    exec (.keyInject key .high) s = .next { s with r1 := regWrite (Quad.ofFn fun j => s.r1.val.get j ^^^
      le32 (byteAt key (16 + 4 * j.val)) (byteAt key (17 + 4 * j.val)) (byteAt key (18 + 4 * j.val))
        (byteAt key (19 + 4 * j.val))) }) ∧
  (∀ (cfg : Config) (key : U256) (r1 : Quad), cfg.roundKeySource = .keyDerived →
    keyInject key .low r1 = r1.xor (roundKeyDerive cfg key).1 ∧ keyInject key .high r1 = r1.xor (roundKeyDerive cfg key).2)

/-- R626 and R635: the warm-up is sixteen generations, each with its fold into A; R1 of generation `i` is GEN_BLOCK's own except
after 14, where the low key half is XORed in, and after 15, where the high half is; the other registers are GEN_BLOCK's. -/
def Obligations.WarmupSchedule : Prop :=
  ∀ (cfg : Config) (key : U256) (c : Cipher) (i : Nat), i < 16 →
    let before := warmupN cfg key i c
    let after := warmupN cfg key (i + 1) c
    let g := genBlock cfg before
    after.a = warmupFold g.1 g.2.a ∧ after.b = g.2.b ∧ after.r2 = g.2.r2 ∧ after.r3 = g.2.r3 ∧
    after.k1 = c.k1 ∧ after.k2 = c.k2 ∧
    (i < 14 → after.r1 = g.2.r1) ∧
    (i = 14 → after.r1 = g.2.r1.xor (quadAt key 0)) ∧
    (i = 15 → after.r1 = g.2.r1.xor (quadAt key 16))

/-- R629 (with R624 and R802): INIT, in either variant, completes in every state whose phase is not FAULTED. The registers are those
of sixteen warm-up generations from the loaded ones, with R1, R2, R3 zeroed and the round keys derived; ks_valid is 0 and ks_out
holds no value, the phase is READY, the fault code and everything outside the core's tuple stay. `alt` changes B[0..8) only at load time. With the
rule's example. -/
def Obligations.InitResult : Prop :=
  (∀ (alt : Bool) (s : State), s.phase ≠ .faulted →
    ∃ t, exec (.init alt) s = .next t ∧
      cipherOf t = warmupN s.cfg s.ports.keyIn 16
        ⟨(loadKeyIv s.ports.keyIn s.ports.nonceIn alt).a, (loadKeyIv s.ports.keyIn s.ports.nonceIn alt).b,
          .fill 0, .fill 0, .fill 0, (roundKeyDerive s.cfg s.ports.keyIn).1, (roundKeyDerive s.cfg s.ports.keyIn).2⟩ ∧
      CipherWritten t ∧ t.phase = .ready ∧ t.ksValid = false ∧ t.ksOut.written = false ∧ t.faultCode = s.faultCode ∧
      t.cfg = s.cfg ∧ t.ports = s.ports ∧ t.pending = s.pending ∧ t.unitOut = s.unitOut) ∧
  (∀ (key : U256) (nonce : U128), (loadKeyIv key nonce true).a = (loadKeyIv key nonce false).a ∧
    ∀ k : Fin 16, 8 ≤ k.val → (loadKeyIv key nonce true).b.get k = (loadKeyIv key nonce false).b.get k) ∧
  (initCipher .default 0 0 false).r1 = ⟨0x18d61911, 0x6c74661d, 0x8a96ef5d, 0x1c35f7f7⟩

/-- R634: INIT forgets everything of the session before it. Two states with the same parameters and the same key and nonce on the
ports, whatever else they hold, have after it the same cipher registers, phase and ks_valid, and no value in ks_out. -/
def Obligations.InitForgetsThePast : Prop :=
  ∀ (alt : Bool) (s s' t t' : State), s.cfg = s'.cfg → s.ports.keyIn = s'.ports.keyIn → s.ports.nonceIn = s'.ports.nonceIn →
    exec (.init alt) s = .next t → exec (.init alt) s' = .next t' →
    t.a = t'.a ∧ t.b = t'.b ∧ t.r1 = t'.r1 ∧ t.r2 = t'.r2 ∧ t.r3 = t'.r3 ∧ t.k1 = t'.k1 ∧ t.k2 = t'.k2 ∧
    t.phase = t'.phase ∧ t.ksValid = t'.ksValid ∧ t.ksOut.written = false ∧ t'.ksOut.written = false

/-! ### Commands, faults, observations -/

/-- R621: NOP has a next state in UNINIT and READY, and it is the same state; in FAULTED it has no step. -/
def Obligations.NopResult : Prop :=
  (∀ s : State, s.phase ≠ .faulted → exec .nop s = .next s) ∧
  (∀ s t : State, s.phase = .faulted → exec .nop s ≠ .next t)

/-- R630: NEXT in READY with every cipher register holding a value completes: one generation, its block in ks_out, ks_valid 1, and
nothing else changes; in UNINIT it raises NOT_INITIALIZED and changes the phase and the fault code only; in FAULTED it has no step.
With the rule's example: the first block after INIT with a zero key and nonce. -/
def Obligations.NextResult : Prop :=
  (∀ s : State, s.phase = .ready → CipherWritten s →
    exec .next s = .next { s with
      a := regWrite (genBlock s.cfg (cipherOf s)).2.a
      b := regWrite (genBlock s.cfg (cipherOf s)).2.b
      r1 := regWrite (genBlock s.cfg (cipherOf s)).2.r1
      r2 := regWrite (genBlock s.cfg (cipherOf s)).2.r2
      r3 := regWrite (genBlock s.cfg (cipherOf s)).2.r3
      ksOut := regWrite (genBlock s.cfg (cipherOf s)).1
      ksValid := true }) ∧
  (∀ s : State, s.phase = .uninit →
    exec .next s = .next { s with phase := .faulted, faultCode := .notInitialized }) ∧
  (∀ s t : State, s.phase = .faulted → exec .next s ≠ .next t) ∧
  blockBytes (genBlock .default (initCipher .default 0 0 false)).1 =
    [0x69, 0xca, 0x6d, 0xaf, 0x9a, 0xe3, 0xb7, 0x2d, 0xb1, 0x34, 0xa8, 0x5a, 0x83, 0x7e, 0x41, 0x9d]

/-- R605: after an INIT in any state that is not FAULTED, any number of NEXTs complete, and the last block is a function of the key,
the nonce, the mode, the parameters and the count alone; from any READY state whose cipher registers hold values, it is a function
of those registers, the parameters and the count. -/
def Obligations.KeystreamIsAFunction : Prop :=
  (∀ (n : Nat) (alt : Bool) (s : State), s.phase ≠ .faulted →
    ∃ t u, exec (.init alt) s = .next t ∧ nextTimes (n + 1) t = .next u ∧ u.ksValid = true ∧
      u.ksOut = regWrite
        (genBlock s.cfg (generations s.cfg n (initCipher s.cfg s.ports.keyIn s.ports.nonceIn alt))).1) ∧
  (∀ (n : Nat) (s : State), s.phase = .ready → CipherWritten s →
    ∃ t, nextTimes (n + 1) s = .next t ∧ t.phase = .ready ∧ CipherWritten t ∧ t.ksValid = true ∧
      t.ksOut = regWrite (genBlock s.cfg (generations s.cfg n (cipherOf s))).1 ∧
      cipherOf t = generations s.cfg (n + 1) (cipherOf s))

/-- R631 (with R703): a reserved word on the port, in UNINIT and READY, raises RESERVED_COMMAND: the step has a next state in which
the phase is FAULTED and the code RESERVED_COMMAND, and no cipher register, ks_out or ks_valid has changed; 0x06 is such a word. -/
def Obligations.ReservedWordFaults : Prop :=
  (∀ (s : State) (r : ReservedWord), s.ports.rst = false → decode s.ports.cmdIn = .error r → s.phase ≠ .faulted →
    ∃ t, step s = .next t ∧ t.phase = .faulted ∧ t.faultCode = .reservedCommand ∧
      t.a = s.a ∧ t.b = s.b ∧ t.r1 = s.r1 ∧ t.r2 = s.r2 ∧ t.r3 = s.r3 ∧ t.k1 = s.k1 ∧ t.k2 = s.k2 ∧
      t.ksOut = s.ksOut ∧ t.ksValid = s.ksValid) ∧
  (∃ r, decode 0x06 = .error r)

/-- R702: fault entry is precise: a step without reset into FAULTED keeps A, B, R1, R2, R3, K1, K2, ks_out and ks_valid. -/
def Obligations.FaultEntryIsPrecise : Prop :=
  ∀ s t : State, s.ports.rst = false → step s = .next t → t.phase = .faulted →
    t.faultCode ≠ .none ∧ t.a = s.a ∧ t.b = s.b ∧ t.r1 = s.r1 ∧ t.r2 = s.r2 ∧ t.r3 = s.r3 ∧ t.k1 = s.k1 ∧ t.k2 = s.k2 ∧
    t.ksOut = s.ksOut ∧ t.ksValid = s.ksValid

/-- R704: while the phase is FAULTED and `rst` is deasserted, no command word, reserved or not, has a step; reset leaves FAULTED. -/
def Obligations.FaultedIsStuck : Prop :=
  (∀ s t : State, s.phase = .faulted → s.ports.rst = false → step s ≠ .next t) ∧
  (∀ s : State, s.phase = .faulted → s.ports.rst = true → ∃ t, step s = .next t ∧ t.phase = .uninit)

/-- R632: the controller's state machine, transition by transition, and no other: reset goes to UNINIT from any phase; with `rst`
deasserted INIT goes from UNINIT and READY to READY, NOP stays, NEXT goes from UNINIT to FAULTED and stays in READY, a reserved word
goes from UNINIT and READY to FAULTED; from FAULTED no command has a step. In a state that meets the invariant each of these
transitions is there. -/
def Obligations.LifeCycle : Prop :=
  (∀ s t : State, step s = .next t →
    (s.ports.rst = true ∧ t.phase = .uninit) ∨
    (s.ports.rst = false ∧ s.phase ≠ .faulted ∧ (∃ alt, decode s.ports.cmdIn = .ok (.init alt)) ∧ t.phase = .ready) ∨
    (s.ports.rst = false ∧ s.phase ≠ .faulted ∧ decode s.ports.cmdIn = .ok .nop ∧ t.phase = s.phase) ∨
    (s.ports.rst = false ∧ s.phase = .uninit ∧ decode s.ports.cmdIn = .ok .next ∧ t.phase = .faulted ∧
      t.faultCode = .notInitialized) ∨
    (s.ports.rst = false ∧ s.phase = .ready ∧ decode s.ports.cmdIn = .ok .next ∧ t.phase = .ready) ∨
    (s.ports.rst = false ∧ s.phase ≠ .faulted ∧ (∃ r, decode s.ports.cmdIn = .error r) ∧ t.phase = .faulted ∧
      t.faultCode = .reservedCommand)) ∧
  (∀ s t : State, s.phase = .faulted → s.ports.rst = false → step s ≠ .next t) ∧
  (∀ s : State, Inv s → (s.ports.rst = true ∨ s.phase ≠ .faulted) → ∃ t, step s = .next t)

/-- R204: K1 and K2 change by INIT and reset only. -/
def Obligations.RoundKeysFixed : Prop :=
  ∀ s t : State, step s = .next t → s.ports.rst = false → (∀ alt, decode s.ports.cmdIn ≠ .ok (.init alt)) →
    t.k1 = s.k1 ∧ t.k2 = s.k2

/-- R212 for the two parameters: no step changes them. -/
def Obligations.ParametersFixed : Prop := ∀ s t : State, step s = .next t → t.cfg = s.cfg

/-- The model's own result lines (log entry 4) play no part in a command: NOP, INIT and NEXT neither read nor write them. -/
def Obligations.CommandsIgnoreResultLines : Prop :=
  ∀ (i : Instr) (s : State) (u : UnitOut), WellFormed i →
    (∀ t, exec i s = .next t → exec i (putUnit s u) = .next (putUnit t u) ∧ t.unitOut = s.unitOut) ∧
    (∀ f, exec i s = .fault f → exec i (putUnit s u) = .fault f)

/-- R209: the status word: phase in bits 1:0, ks_valid in bit 2, fault_code in bits 4:3, bits 7:5 zero, with the codes of R206 and
R207. -/
def Obligations.StatusLayout : Prop :=
  ∀ s : State,
    (statusWord s).extractLsb' 0 2 = (match s.phase with | .uninit => 0 | .ready => 1 | .faulted => 2) ∧
    (statusWord s).getLsbD 2 = s.ksValid ∧
    (statusWord s).extractLsb' 3 2 = (match s.faultCode with | .none => 0 | .notInitialized => 1 | .reservedCommand => 2) ∧
    (statusWord s).extractLsb' 5 3 = 0

/-- R208: the keystream port. A read while ks_valid is 0 is the fault of that observation; after a NEXT that completed in READY the
port reads the block, byte `n` at bits `8n+7:8n`; after INIT and after reset it cannot be read. -/
def Obligations.KeystreamPort : Prop :=
  (∀ s : State, s.ksValid = false → readKeystream s = .error .ksNotValid) ∧
  (∀ s t : State, s.phase = .ready → CipherWritten s → exec .next s = .next t →
    ∃ z : U128, readKeystream t = .ok z ∧ t.ksOut.val = z ∧ t.ksValid = true ∧
      ∀ i j : Fin 4, z.extractLsb' (8 * (4 * i.val + j.val)) 8 =
        (ksCombine s.b.val s.r1.val s.r2.val i).extractLsb' (8 * j.val) 8) ∧
  (∀ (alt : Bool) (s t : State), exec (.init alt) s = .next t →
    t.ksValid = false ∧ t.ksOut.written = false ∧ readKeystream t = .error .ksNotValid) ∧
  (∀ s t : State, s.ports.rst = true → step s = .next t →
    t.ksValid = false ∧ t.ksOut.written = false ∧ readKeystream t = .error .ksNotValid)

/-- R211: an operation that reads registers stops where one of them holds no value, and names it. Each internal operation run alone,
and NEXT in READY, stops on the first register of the list below it that holds none. Which registers each reads are the rules' own
(R560, R561, R581, R601, R603, R627, R628, R630); the name of the stop, the order in which the registers of a list are looked at, and
that an operation run alone checks no phase are the model's choice (log entries 1 and 14). -/
def Obligations.ReadsOfNoValueFault : Prop :=
  ∀ (s : State) (n : RegName),
    (firstBlank s [.a, .b] = some n →
      exec .lfsrStep s = .fault (.noValue n) ∧ exec .lfsrAdvance s = .fault (.noValue n)) ∧
    (firstBlank s [.a, .r1, .r2, .r3, .k1, .k2] = some n → exec .fsmAdvance s = .fault (.noValue n)) ∧
    (firstBlank s [.b, .r1, .r2] = some n → ∀ i, exec (.ksCombine i) s = .fault (.noValue n)) ∧
    (firstBlank s [.a, .b, .r1, .r2, .r3, .k1, .k2] = some n →
      exec .genBlock s = .fault (.noValue n) ∧ (s.phase = .ready → exec .next s = .fault (.noValue n))) ∧
    (firstBlank s [.a] = some n → ∀ z, exec (.warmupFold z) s = .fault (.noValue n)) ∧
    (firstBlank s [.r1] = some n → ∀ key half, exec (.keyInject key half) s = .fault (.noValue n))

/-! ### The host's notation -/

/-- R409: KEYSTREAM n is ceil(n/16) NEXT commands, and the host keeps the first n bytes of their blocks laid one after the other: byte
`k` kept is byte `k mod 16` of block `k / 16`. SKIP n is n NEXT commands, of whose blocks it keeps nothing. REKEY is INIT: one
transaction with the word 0x01 and that key and nonce. A NEXT command is one transaction with `rst` deasserted and the word 0x02; of
what stands on its key and nonce lines (log entry 15) nothing is said. -/
def Obligations.PseudoInstructions : Prop :=
  (∀ n : Nat,
    n ≤ 16 * (transactions (.keystream n)).length ∧ 16 * (transactions (.keystream n)).length < n + 16 ∧
    ∀ p ∈ transactions (.keystream n), p.rst = false ∧ p.cmdIn = 0x02) ∧
  (∀ (n : Nat) (blocks : List U128), 16 * blocks.length ≥ n →
    (keptBytes (.keystream n) blocks).length = n ∧
    ∀ k < n, ∃ z, blocks[k / 16]? = some z ∧ (keptBytes (.keystream n) blocks)[k]? = some (byteAt z (k % 16))) ∧
  (∀ n : Nat, (transactions (.skip n)).length = n ∧ (∀ p ∈ transactions (.skip n), p.rst = false ∧ p.cmdIn = 0x02) ∧
    ∀ blocks, keptBytes (.skip n) blocks = []) ∧
  ((transactions .next).length = 1 ∧ ∀ p ∈ transactions .next, p.rst = false ∧ p.cmdIn = 0x02) ∧
  (∀ (key : U256) (nonce : U128),
    transactions (.init key nonce) = [{ rst := false, cmdIn := 0x01, keyIn := key, nonceIn := nonce }] ∧
    transactions (.rekey key nonce) = transactions (.init key nonce))

/-- The host going on after a command that has no step (the model's choice, log entry 16; program P5 of 95): in FAULTED, with `rst`
deasserted and a reset as the host's next transaction, the turn leaves the core as it is and drives that reset, and the turn after it
leaves UNINIT, no fault, ks_valid 0 and no value in any cipher register or in ks_out, with the rest of the host's transactions still
to come. A turn whose step has a next state is that step. -/
def Obligations.ResetAfterStuckCommand : Prop :=
  (∀ (s : State) (p : Ports) (rest : List Ports), s.phase = .faulted → s.ports.rst = false →
    s.pending = p :: rest → p.rst = true →
      hostTurn s = .next { s with ports := p, pending := rest } ∧
      ∃ t, hostTurn { s with ports := p, pending := rest } = .next t ∧
        CipherBlank t ∧ t.phase = .uninit ∧ t.faultCode = .none ∧ t.ksOut.written = false ∧ t.ksValid = false ∧
        (∀ (q : Ports) (later : List Ports), rest = q :: later → t.ports = q ∧ t.pending = later)) ∧
  (∀ s t : State, step s = .next t → hostTurn s = .next t)
end

