-- ==== Sys2Proof/Laws/State.lean ====
section
/-! SUPPORT. One small lemma per field per update of the state, so that no proof unfolds a record update. -/

namespace Sys2Proof.Machine

@[simp] theorem regWrite_written {α : Type} (v : α) : (regWrite v).written = true := rfl
@[simp] theorem regWrite_val {α : Type} (v : α) : (regWrite v).val = v := rfl
@[simp] theorem blank_written {α : Type} (v : α) : (Reg.blank v).written = false := rfl
@[simp] theorem blank_val {α : Type} (v : α) : (Reg.blank v).val = v := rfl

@[simp] theorem writePair_a (s : State) (p : LfsrPair) : (writePair s p).a = regWrite p.a := rfl
@[simp] theorem writePair_b (s : State) (p : LfsrPair) : (writePair s p).b = regWrite p.b := rfl
@[simp] theorem writePair_r1 (s : State) (p : LfsrPair) : (writePair s p).r1 = s.r1 := rfl
@[simp] theorem writePair_r2 (s : State) (p : LfsrPair) : (writePair s p).r2 = s.r2 := rfl
@[simp] theorem writePair_r3 (s : State) (p : LfsrPair) : (writePair s p).r3 = s.r3 := rfl
@[simp] theorem writePair_k1 (s : State) (p : LfsrPair) : (writePair s p).k1 = s.k1 := rfl
@[simp] theorem writePair_k2 (s : State) (p : LfsrPair) : (writePair s p).k2 = s.k2 := rfl
@[simp] theorem writePair_phase (s : State) (p : LfsrPair) : (writePair s p).phase = s.phase := rfl
@[simp] theorem writePair_faultCode (s : State) (p : LfsrPair) : (writePair s p).faultCode = s.faultCode := rfl
@[simp] theorem writePair_ksOut (s : State) (p : LfsrPair) : (writePair s p).ksOut = s.ksOut := rfl
@[simp] theorem writePair_ksValid (s : State) (p : LfsrPair) : (writePair s p).ksValid = s.ksValid := rfl
@[simp] theorem writePair_cfg (s : State) (p : LfsrPair) : (writePair s p).cfg = s.cfg := rfl
@[simp] theorem writePair_ports (s : State) (p : LfsrPair) : (writePair s p).ports = s.ports := rfl
@[simp] theorem writePair_pending (s : State) (p : LfsrPair) : (writePair s p).pending = s.pending := rfl
@[simp] theorem writePair_unitOut (s : State) (p : LfsrPair) : (writePair s p).unitOut = s.unitOut := rfl

@[simp] theorem writeFsm_a (s : State) (r : FsmRegs) : (writeFsm s r).a = s.a := rfl
@[simp] theorem writeFsm_b (s : State) (r : FsmRegs) : (writeFsm s r).b = s.b := rfl
@[simp] theorem writeFsm_r1 (s : State) (r : FsmRegs) : (writeFsm s r).r1 = regWrite r.r1 := rfl
@[simp] theorem writeFsm_r2 (s : State) (r : FsmRegs) : (writeFsm s r).r2 = regWrite r.r2 := rfl
@[simp] theorem writeFsm_r3 (s : State) (r : FsmRegs) : (writeFsm s r).r3 = regWrite r.r3 := rfl
@[simp] theorem writeFsm_k1 (s : State) (r : FsmRegs) : (writeFsm s r).k1 = s.k1 := rfl
@[simp] theorem writeFsm_k2 (s : State) (r : FsmRegs) : (writeFsm s r).k2 = s.k2 := rfl
@[simp] theorem writeFsm_phase (s : State) (r : FsmRegs) : (writeFsm s r).phase = s.phase := rfl
@[simp] theorem writeFsm_faultCode (s : State) (r : FsmRegs) : (writeFsm s r).faultCode = s.faultCode := rfl
@[simp] theorem writeFsm_ksOut (s : State) (r : FsmRegs) : (writeFsm s r).ksOut = s.ksOut := rfl
@[simp] theorem writeFsm_ksValid (s : State) (r : FsmRegs) : (writeFsm s r).ksValid = s.ksValid := rfl
@[simp] theorem writeFsm_cfg (s : State) (r : FsmRegs) : (writeFsm s r).cfg = s.cfg := rfl
@[simp] theorem writeFsm_ports (s : State) (r : FsmRegs) : (writeFsm s r).ports = s.ports := rfl
@[simp] theorem writeFsm_pending (s : State) (r : FsmRegs) : (writeFsm s r).pending = s.pending := rfl
@[simp] theorem writeFsm_unitOut (s : State) (r : FsmRegs) : (writeFsm s r).unitOut = s.unitOut := rfl

@[simp] theorem writeCipher_a (s : State) (c : Cipher) : (writeCipher s c).a = regWrite c.a := rfl
@[simp] theorem writeCipher_b (s : State) (c : Cipher) : (writeCipher s c).b = regWrite c.b := rfl
@[simp] theorem writeCipher_r1 (s : State) (c : Cipher) : (writeCipher s c).r1 = regWrite c.r1 := rfl
@[simp] theorem writeCipher_r2 (s : State) (c : Cipher) : (writeCipher s c).r2 = regWrite c.r2 := rfl
@[simp] theorem writeCipher_r3 (s : State) (c : Cipher) : (writeCipher s c).r3 = regWrite c.r3 := rfl
@[simp] theorem writeCipher_k1 (s : State) (c : Cipher) : (writeCipher s c).k1 = regWrite c.k1 := rfl
@[simp] theorem writeCipher_k2 (s : State) (c : Cipher) : (writeCipher s c).k2 = regWrite c.k2 := rfl
@[simp] theorem writeCipher_phase (s : State) (c : Cipher) : (writeCipher s c).phase = s.phase := rfl
@[simp] theorem writeCipher_faultCode (s : State) (c : Cipher) : (writeCipher s c).faultCode = s.faultCode := rfl
@[simp] theorem writeCipher_ksOut (s : State) (c : Cipher) : (writeCipher s c).ksOut = s.ksOut := rfl
@[simp] theorem writeCipher_ksValid (s : State) (c : Cipher) : (writeCipher s c).ksValid = s.ksValid := rfl
@[simp] theorem writeCipher_cfg (s : State) (c : Cipher) : (writeCipher s c).cfg = s.cfg := rfl
@[simp] theorem writeCipher_ports (s : State) (c : Cipher) : (writeCipher s c).ports = s.ports := rfl
@[simp] theorem writeCipher_pending (s : State) (c : Cipher) : (writeCipher s c).pending = s.pending := rfl
@[simp] theorem writeCipher_unitOut (s : State) (c : Cipher) : (writeCipher s c).unitOut = s.unitOut := rfl

@[simp] theorem writeGenerated_a (s : State) (c : Cipher) : (writeGenerated s c).a = regWrite c.a := rfl
@[simp] theorem writeGenerated_b (s : State) (c : Cipher) : (writeGenerated s c).b = regWrite c.b := rfl
@[simp] theorem writeGenerated_r1 (s : State) (c : Cipher) : (writeGenerated s c).r1 = regWrite c.r1 := rfl
@[simp] theorem writeGenerated_r2 (s : State) (c : Cipher) : (writeGenerated s c).r2 = regWrite c.r2 := rfl
@[simp] theorem writeGenerated_r3 (s : State) (c : Cipher) : (writeGenerated s c).r3 = regWrite c.r3 := rfl
@[simp] theorem writeGenerated_k1 (s : State) (c : Cipher) : (writeGenerated s c).k1 = s.k1 := rfl
@[simp] theorem writeGenerated_k2 (s : State) (c : Cipher) : (writeGenerated s c).k2 = s.k2 := rfl
@[simp] theorem writeGenerated_phase (s : State) (c : Cipher) : (writeGenerated s c).phase = s.phase := rfl
@[simp] theorem writeGenerated_faultCode (s : State) (c : Cipher) : (writeGenerated s c).faultCode = s.faultCode := rfl
@[simp] theorem writeGenerated_ksOut (s : State) (c : Cipher) : (writeGenerated s c).ksOut = s.ksOut := rfl
@[simp] theorem writeGenerated_ksValid (s : State) (c : Cipher) : (writeGenerated s c).ksValid = s.ksValid := rfl
@[simp] theorem writeGenerated_cfg (s : State) (c : Cipher) : (writeGenerated s c).cfg = s.cfg := rfl
@[simp] theorem writeGenerated_ports (s : State) (c : Cipher) : (writeGenerated s c).ports = s.ports := rfl
@[simp] theorem writeGenerated_pending (s : State) (c : Cipher) : (writeGenerated s c).pending = s.pending := rfl
@[simp] theorem writeGenerated_unitOut (s : State) (c : Cipher) : (writeGenerated s c).unitOut = s.unitOut := rfl

@[simp] theorem putUnit_a (s : State) (v : UnitOut) : (putUnit s v).a = s.a := rfl
@[simp] theorem putUnit_b (s : State) (v : UnitOut) : (putUnit s v).b = s.b := rfl
@[simp] theorem putUnit_r1 (s : State) (v : UnitOut) : (putUnit s v).r1 = s.r1 := rfl
@[simp] theorem putUnit_r2 (s : State) (v : UnitOut) : (putUnit s v).r2 = s.r2 := rfl
@[simp] theorem putUnit_r3 (s : State) (v : UnitOut) : (putUnit s v).r3 = s.r3 := rfl
@[simp] theorem putUnit_k1 (s : State) (v : UnitOut) : (putUnit s v).k1 = s.k1 := rfl
@[simp] theorem putUnit_k2 (s : State) (v : UnitOut) : (putUnit s v).k2 = s.k2 := rfl
@[simp] theorem putUnit_phase (s : State) (v : UnitOut) : (putUnit s v).phase = s.phase := rfl
@[simp] theorem putUnit_faultCode (s : State) (v : UnitOut) : (putUnit s v).faultCode = s.faultCode := rfl
@[simp] theorem putUnit_ksOut (s : State) (v : UnitOut) : (putUnit s v).ksOut = s.ksOut := rfl
@[simp] theorem putUnit_ksValid (s : State) (v : UnitOut) : (putUnit s v).ksValid = s.ksValid := rfl
@[simp] theorem putUnit_cfg (s : State) (v : UnitOut) : (putUnit s v).cfg = s.cfg := rfl
@[simp] theorem putUnit_ports (s : State) (v : UnitOut) : (putUnit s v).ports = s.ports := rfl
@[simp] theorem putUnit_pending (s : State) (v : UnitOut) : (putUnit s v).pending = s.pending := rfl
@[simp] theorem putUnit_unitOut (s : State) (v : UnitOut) : (putUnit s v).unitOut = v := rfl

@[simp] theorem raiseFault_a (s : State) (code : FaultCode) : (raiseFault s code).a = s.a := rfl
@[simp] theorem raiseFault_b (s : State) (code : FaultCode) : (raiseFault s code).b = s.b := rfl
@[simp] theorem raiseFault_r1 (s : State) (code : FaultCode) : (raiseFault s code).r1 = s.r1 := rfl
@[simp] theorem raiseFault_r2 (s : State) (code : FaultCode) : (raiseFault s code).r2 = s.r2 := rfl
@[simp] theorem raiseFault_r3 (s : State) (code : FaultCode) : (raiseFault s code).r3 = s.r3 := rfl
@[simp] theorem raiseFault_k1 (s : State) (code : FaultCode) : (raiseFault s code).k1 = s.k1 := rfl
@[simp] theorem raiseFault_k2 (s : State) (code : FaultCode) : (raiseFault s code).k2 = s.k2 := rfl
@[simp] theorem raiseFault_phase (s : State) (code : FaultCode) : (raiseFault s code).phase = Phase.faulted := rfl
@[simp] theorem raiseFault_faultCode (s : State) (code : FaultCode) : (raiseFault s code).faultCode = code := rfl
@[simp] theorem raiseFault_ksOut (s : State) (code : FaultCode) : (raiseFault s code).ksOut = s.ksOut := rfl
@[simp] theorem raiseFault_ksValid (s : State) (code : FaultCode) : (raiseFault s code).ksValid = s.ksValid := rfl
@[simp] theorem raiseFault_cfg (s : State) (code : FaultCode) : (raiseFault s code).cfg = s.cfg := rfl
@[simp] theorem raiseFault_ports (s : State) (code : FaultCode) : (raiseFault s code).ports = s.ports := rfl
@[simp] theorem raiseFault_pending (s : State) (code : FaultCode) : (raiseFault s code).pending = s.pending := rfl
@[simp] theorem raiseFault_unitOut (s : State) (code : FaultCode) : (raiseFault s code).unitOut = s.unitOut := rfl

@[simp] theorem driveWord_a (s : State) (cw : U8) : (driveWord s cw).a = s.a := rfl
@[simp] theorem driveWord_b (s : State) (cw : U8) : (driveWord s cw).b = s.b := rfl
@[simp] theorem driveWord_r1 (s : State) (cw : U8) : (driveWord s cw).r1 = s.r1 := rfl
@[simp] theorem driveWord_r2 (s : State) (cw : U8) : (driveWord s cw).r2 = s.r2 := rfl
@[simp] theorem driveWord_r3 (s : State) (cw : U8) : (driveWord s cw).r3 = s.r3 := rfl
@[simp] theorem driveWord_k1 (s : State) (cw : U8) : (driveWord s cw).k1 = s.k1 := rfl
@[simp] theorem driveWord_k2 (s : State) (cw : U8) : (driveWord s cw).k2 = s.k2 := rfl
@[simp] theorem driveWord_phase (s : State) (cw : U8) : (driveWord s cw).phase = s.phase := rfl
@[simp] theorem driveWord_faultCode (s : State) (cw : U8) : (driveWord s cw).faultCode = s.faultCode := rfl
@[simp] theorem driveWord_ksOut (s : State) (cw : U8) : (driveWord s cw).ksOut = s.ksOut := rfl
@[simp] theorem driveWord_ksValid (s : State) (cw : U8) : (driveWord s cw).ksValid = s.ksValid := rfl
@[simp] theorem driveWord_cfg (s : State) (cw : U8) : (driveWord s cw).cfg = s.cfg := rfl
@[simp] theorem driveWord_ports (s : State) (cw : U8) : (driveWord s cw).ports = ⟨false, cw, s.ports.keyIn, s.ports.nonceIn⟩ := rfl
@[simp] theorem driveWord_pending (s : State) (cw : U8) : (driveWord s cw).pending = s.pending := rfl
@[simp] theorem driveWord_unitOut (s : State) (cw : U8) : (driveWord s cw).unitOut = s.unitOut := rfl

@[simp] theorem resetCore_a (s : State) : (resetCore s).a = State.reset.a := rfl
@[simp] theorem resetCore_b (s : State) : (resetCore s).b = State.reset.b := rfl
@[simp] theorem resetCore_r1 (s : State) : (resetCore s).r1 = State.reset.r1 := rfl
@[simp] theorem resetCore_r2 (s : State) : (resetCore s).r2 = State.reset.r2 := rfl
@[simp] theorem resetCore_r3 (s : State) : (resetCore s).r3 = State.reset.r3 := rfl
@[simp] theorem resetCore_k1 (s : State) : (resetCore s).k1 = State.reset.k1 := rfl
@[simp] theorem resetCore_k2 (s : State) : (resetCore s).k2 = State.reset.k2 := rfl
@[simp] theorem resetCore_phase (s : State) : (resetCore s).phase = State.reset.phase := rfl
@[simp] theorem resetCore_faultCode (s : State) : (resetCore s).faultCode = State.reset.faultCode := rfl
@[simp] theorem resetCore_ksOut (s : State) : (resetCore s).ksOut = State.reset.ksOut := rfl
@[simp] theorem resetCore_ksValid (s : State) : (resetCore s).ksValid = State.reset.ksValid := rfl
@[simp] theorem resetCore_cfg (s : State) : (resetCore s).cfg = s.cfg := rfl
@[simp] theorem resetCore_ports (s : State) : (resetCore s).ports = s.ports := rfl
@[simp] theorem resetCore_pending (s : State) : (resetCore s).pending = s.pending := rfl
@[simp] theorem resetCore_unitOut (s : State) : (resetCore s).unitOut = State.reset.unitOut := rfl

@[simp] theorem hostAdvance_a (s : State) : (hostAdvance s).a = s.a := by
  unfold hostAdvance; split <;> rfl
@[simp] theorem hostAdvance_b (s : State) : (hostAdvance s).b = s.b := by
  unfold hostAdvance; split <;> rfl
@[simp] theorem hostAdvance_r1 (s : State) : (hostAdvance s).r1 = s.r1 := by
  unfold hostAdvance; split <;> rfl
@[simp] theorem hostAdvance_r2 (s : State) : (hostAdvance s).r2 = s.r2 := by
  unfold hostAdvance; split <;> rfl
@[simp] theorem hostAdvance_r3 (s : State) : (hostAdvance s).r3 = s.r3 := by
  unfold hostAdvance; split <;> rfl
@[simp] theorem hostAdvance_k1 (s : State) : (hostAdvance s).k1 = s.k1 := by
  unfold hostAdvance; split <;> rfl
@[simp] theorem hostAdvance_k2 (s : State) : (hostAdvance s).k2 = s.k2 := by
  unfold hostAdvance; split <;> rfl
@[simp] theorem hostAdvance_phase (s : State) : (hostAdvance s).phase = s.phase := by
  unfold hostAdvance; split <;> rfl
@[simp] theorem hostAdvance_faultCode (s : State) : (hostAdvance s).faultCode = s.faultCode := by
  unfold hostAdvance; split <;> rfl
@[simp] theorem hostAdvance_ksOut (s : State) : (hostAdvance s).ksOut = s.ksOut := by
  unfold hostAdvance; split <;> rfl
@[simp] theorem hostAdvance_ksValid (s : State) : (hostAdvance s).ksValid = s.ksValid := by
  unfold hostAdvance; split <;> rfl
@[simp] theorem hostAdvance_cfg (s : State) : (hostAdvance s).cfg = s.cfg := by
  unfold hostAdvance; split <;> rfl
@[simp] theorem hostAdvance_unitOut (s : State) : (hostAdvance s).unitOut = s.unitOut := by
  unfold hostAdvance; split <;> rfl

/-- With no transaction left the bus goes idle. -/
theorem hostAdvance_ports_nil (s : State) (h : s.pending = []) : (hostAdvance s).ports = .idle := by
  simp [hostAdvance, h]

/-- Otherwise the next transaction is driven. -/
theorem hostAdvance_ports_cons (s : State) (p : Ports) (rest : List Ports) (h : s.pending = p :: rest) :
    (hostAdvance s).ports = p := by
  simp [hostAdvance, h]

/-- The list of transactions loses its first. -/
theorem hostAdvance_pending (s : State) : (hostAdvance s).pending = s.pending.tail := by
  unfold hostAdvance; split <;> simp_all

@[simp] theorem withFetchWord_ports (s : State) (nbits w : Nat) :
    (s.withFetchWord nbits w).ports = ⟨false, tableWord nbits w, s.ports.keyIn, s.ports.nonceIn⟩ := rfl

end Sys2Proof.Machine
end

