-- ==== Sys2Proof/Laws/Ops.lean ====
section
/-! SUPPORT. One lemma per shared operation that says everything it can do, and the inversion of a step. -/

namespace Sys2Proof.Machine

/-- A register that holds a value reads as that value (R211). -/
@[simp] theorem regRead_of_written {α : Type} {n : RegName} {r : Reg α} (h : r.written = true) : regRead n r = .ok r.val := by
  simp [regRead, h]

/-- A register that holds none stops the read (R211). -/
@[simp] theorem regRead_of_blank {α : Type} {n : RegName} {r : Reg α} (h : r.written = false) :
    regRead n r = .error (.noValue n) := by
  simp [regRead, h]

/-- A read answers a value exactly from a register that holds it. -/
theorem regRead_eq_ok {α : Type} {n : RegName} {r : Reg α} {v : α} (h : regRead n r = .ok v) : r.written = true ∧ r.val = v := by
  cases hw : r.written <;> simp_all

theorem readPair_of_written {s : State} (ha : s.a.written = true) (hb : s.b.written = true) :
    readPair s = .ok ⟨s.a.val, s.b.val⟩ := by
  simp [readPair, ha, hb]

theorem readFsm_of_written {s : State} (h1 : s.r1.written = true) (h2 : s.r2.written = true) (h3 : s.r3.written = true) :
    readFsm s = .ok ⟨s.r1.val, s.r2.val, s.r3.val⟩ := by
  simp [readFsm, h1, h2, h3, bind, Except.bind, pure, Except.pure]

theorem readCombiner_of_written {s : State} (hb : s.b.written = true) (h1 : s.r1.written = true) (h2 : s.r2.written = true) :
    readCombiner s = .ok (s.b.val, s.r1.val, s.r2.val) := by
  simp [readCombiner, hb, h1, h2, bind, Except.bind, pure, Except.pure]

theorem readCipher_of_written {s : State} (h : CipherWritten s) : readCipher s = .ok (cipherOf s) := by
  obtain ⟨ha, hb, h1, h2, h3, hk1, hk2⟩ := h
  simp [readCipher, cipherOf, ha, hb, h1, h2, h3, hk1, hk2, bind, Except.bind, pure, Except.pure]

/-- Reading all seven registers answers a cipher exactly when all hold values. -/
theorem readCipher_eq_ok {s : State} {c : Cipher} (h : readCipher s = .ok c) : CipherWritten s ∧ c = cipherOf s := by
  cases ha : s.a.written <;> cases hb : s.b.written <;> cases h1 : s.r1.written <;> cases h2 : s.r2.written <;>
    cases h3 : s.r3.written <;> cases hk1 : s.k1.written <;> cases hk2 : s.k2.written <;>
    simp_all [readCipher, cipherOf, CipherWritten, bind, Except.bind, pure, Except.pure]

theorem finish_eq_next {r : Except Fault State} {t : State} : finish r = .next t ↔ r = .ok t := by
  cases r <;> simp [finish]

/-- A command answers a next state only where the phase is not FAULTED, and then it is its body's (R620). -/
theorem command_eq_next {s t : State} {body : Result} : command s body = .next t ↔ s.phase ≠ .faulted ∧ body = .next t := by
  unfold command; split <;> simp_all

theorem command_of_running {s : State} {body : Result} (h : s.phase ≠ .faulted) : command s body = body := by
  simp [command, h]

theorem command_of_faulted {s : State} {body : Result} (h : s.phase = .faulted) : command s body = .fault .noStepInFaulted := by
  simp [command, h]

theorem thenHost_eq_next {r : Result} {t : State} : thenHost r = .next t ↔ ∃ u, r = .next u ∧ t = hostAdvance u := by
  cases r <;> simp [thenHost, eq_comm]

theorem execReserved_eq_next {s t : State} :
    execReserved s = .next t ↔ s.phase ≠ .faulted ∧ t = raiseFault s .reservedCommand := by
  rw [execReserved, command_eq_next]
  exact and_congr_right fun _ => ⟨fun h => by simpa using h.symm, fun h => by rw [h]⟩

/-- What a word decodes to is one of the three commands (R402). -/
theorem decode_ok_cases {w : U8} {i : Instr} (h : decode w = .ok i) : i = .nop ∨ (∃ alt, i = .init alt) ∨ i = .next := by
  unfold decode at h
  repeat' split at h
  all_goals cases h
  exacts [.inl rfl, .inr (.inl ⟨_, rfl⟩), .inr (.inr rfl)]

/-- The inversion of a step: reset, a decoded command, or a reserved word (R620, R800). -/
theorem step_cases {s t : State} (h : step s = .next t) :
    (s.ports.rst = true ∧ t = hostAdvance (resetCore s)) ∨
    (s.ports.rst = false ∧ ∃ i u, decode s.ports.cmdIn = .ok i ∧ exec i s = .next u ∧ t = hostAdvance u) ∨
    (s.ports.rst = false ∧ ∃ r, decode s.ports.cmdIn = .error r ∧ s.phase ≠ .faulted ∧
      t = hostAdvance (raiseFault s .reservedCommand)) := by
  unfold step at h
  split at h
  case isTrue hr => exact .inl ⟨hr, by simpa using h.symm⟩
  case isFalse hr =>
    obtain ⟨u, hu, rfl⟩ := thenHost_eq_next.mp h
    have hr : s.ports.rst = false := by simpa using hr
    unfold runCommand fetch at hu
    split at hu
    · rename_i i hd; exact .inr (.inl ⟨hr, i, u, hd, hu, rfl⟩)
    · rename_i r hd
      obtain ⟨hp, rfl⟩ := execReserved_eq_next.mp hu
      exact .inr (.inr ⟨hr, r, hd, hp, rfl⟩)

/-- In FAULTED no command has a step, whatever the word on the port (R704). -/
theorem step_of_faulted {s : State} (hp : s.phase = .faulted) (hr : s.ports.rst = false) :
    step s = .fault .noStepInFaulted := by
  cases hd : decode s.ports.cmdIn with
  | ok i =>
    obtain rfl | ⟨alt, rfl⟩ | rfl := decode_ok_cases hd <;>
      simp [step, hr, runCommand, fetch, hd, exec, execNop, execInit, execNext, command_of_faulted hp, thenHost]
  | error r => simp [step, hr, runCommand, fetch, hd, execReserved, command_of_faulted hp, thenHost]

/-- A turn whose step has a next state is that step (log entry 16). -/
theorem hostTurn_of_next {s t : State} (h : step s = .next t) : hostTurn s = .next t := by
  simp [hostTurn, h]

/-- A command without a step leaves the core as it is, and the host goes on (log entry 16). -/
theorem hostTurn_of_faulted {s : State} (hp : s.phase = .faulted) (hr : s.ports.rst = false) :
    hostTurn s = .next (hostAdvance s) := by
  simp [hostTurn, step_of_faulted hp hr]

end Sys2Proof.Machine
end

