-- ==== Sys2Proof/Laws/PerInstr.lean ====
section
/-! SUPPORT. The family HasWord: an instruction has a command word exactly if the host can issue it (R403, R407). -/

namespace Sys2Proof.Laws.HasWord

/-- An instruction has a command word exactly if it is a command. -/
def Statement (i : Instr) : Prop := (encode i).isSome = i.isCommand

theorem nop : Statement .nop := rfl
theorem init (alt : Bool) : Statement (.init alt) := by cases alt <;> rfl
theorem next : Statement .next := rfl
theorem mulxA (v : U16) : Statement (.mulxA v) := rfl
theorem mulxInvA (v : U16) : Statement (.mulxInvA v) := rfl
theorem mulxB (v : U16) : Statement (.mulxB v) := rfl
theorem mulxInvB (v : U16) : Statement (.mulxInvB v) := rfl
theorem sbox (x : U8) : Statement (.sbox x) := rfl
theorem xtime32 (w : U32) : Statement (.xtime32 w) := rfl
theorem mixcol32 (w : U32) : Statement (.mixcol32 w) := rfl
theorem aesr (x k : Quad) : Statement (.aesr x k) := rfl
theorem sigma (x : Quad) : Statement (.sigma x) := rfl
theorem lfsrStep : Statement .lfsrStep := rfl
theorem lfsrAdvance : Statement .lfsrAdvance := rfl
theorem fsmAdvance : Statement .fsmAdvance := rfl
theorem ksCombine (i : Fin 4) : Statement (.ksCombine i) := rfl
theorem genBlock : Statement .genBlock := rfl
theorem loadKeyIv (key : U256) (nonce : U128) (alt : Bool) : Statement (.loadKeyIv key nonce alt) := rfl
theorem roundKeyDerive (key : U256) : Statement (.roundKeyDerive key) := rfl
theorem warmupFold (z : U128) : Statement (.warmupFold z) := rfl
theorem keyInject (key : U256) (half : KeyHalf) : Statement (.keyInject key half) := rfl

end Sys2Proof.Laws.HasWord
end

