-- ==== Sys2Proof/Laws/Words.lean ====
section
/-! SUPPORT. The small lemmas of the word arrays: an array built from its words has those words, two arrays with the same words
are equal, and a word is its four bytes. -/

namespace Sys2Proof

@[simp] theorem Quad.get_ofFn (f : Fin 4 → U32) (i : Fin 4) : (Quad.ofFn f).get i = f i := by
  fin_cases i <;> rfl

@[simp] theorem Quad.get_fill (w : U32) (i : Fin 4) : (Quad.fill w).get i = w := by
  fin_cases i <;> rfl

@[simp] theorem Quad.get_xor (x y : Quad) (i : Fin 4) : (x.xor y).get i = x.get i ^^^ y.get i := by
  fin_cases i <;> rfl

/-- Four words decide the array. -/
theorem Quad.ext_get {x y : Quad} (h : ∀ i, x.get i = y.get i) : x = y := by
  cases x; cases y
  simp only [Quad.mk.injEq]
  exact ⟨h 0, h 1, h 2, h 3⟩

@[simp] theorem Quad.ofFn_get (x : Quad) : Quad.ofFn x.get = x := Quad.ext_get fun i => by simp

@[simp] theorem Lfsr.get_ofFn (f : Fin 16 → U16) (k : Fin 16) : (Lfsr.ofFn f).get k = f k := by
  fin_cases k <;> rfl

@[simp] theorem Lfsr.get_fill (w : U16) (k : Fin 16) : (Lfsr.fill w).get k = w := by
  simp [Lfsr.fill]

@[simp] theorem Lfsr.get_xor (x y : Lfsr) (k : Fin 16) : (x.xor y).get k = x.get k ^^^ y.get k := by
  simp [Lfsr.xor]

/-- Sixteen words decide the register. -/
theorem Lfsr.ext_get {x y : Lfsr} (h : ∀ k, x.get k = y.get k) : x = y := by
  cases x; cases y
  simp only [Lfsr.mk.injEq]
  exact ⟨h 0, h 1, h 2, h 3, h 4, h 5, h 6, h 7, h 8, h 9, h 10, h 11, h 12, h 13, h 14, h 15⟩

namespace Machine

/-- A bit of byte `k`. -/
theorem byteAt_getLsbD {n : Nat} (v : BitVec n) (k i : Nat) :
    (byteAt v k).getLsbD i = (decide (i < 8) && v.getLsbD (8 * k + i)) := by
  simp [byteAt]

/-- The bytes of a word built from bytes are those bytes (R303, R304). -/
@[simp] theorem byteAt_le32_0 (b0 b1 b2 b3 : U8) : byteAt (le32 b0 b1 b2 b3) 0 = b0 := by
  apply BitVec.eq_of_getLsbD_eq; intro i hi
  interval_cases i <;> simp [byteAt, le32]

@[simp] theorem byteAt_le32_1 (b0 b1 b2 b3 : U8) : byteAt (le32 b0 b1 b2 b3) 1 = b1 := by
  apply BitVec.eq_of_getLsbD_eq; intro i hi
  interval_cases i <;> simp [byteAt, le32]

@[simp] theorem byteAt_le32_2 (b0 b1 b2 b3 : U8) : byteAt (le32 b0 b1 b2 b3) 2 = b2 := by
  apply BitVec.eq_of_getLsbD_eq; intro i hi
  interval_cases i <;> simp [byteAt, le32]

@[simp] theorem byteAt_le32_3 (b0 b1 b2 b3 : U8) : byteAt (le32 b0 b1 b2 b3) 3 = b3 := by
  apply BitVec.eq_of_getLsbD_eq; intro i hi
  interval_cases i <;> simp [byteAt, le32]

/-- A word is built back from its bytes. -/
@[simp] theorem le32_byteAt (w : U32) : le32 (byteAt w 0) (byteAt w 1) (byteAt w 2) (byteAt w 3) = w := by
  apply BitVec.eq_of_getLsbD_eq; intro i hi
  interval_cases i <;> simp [byteAt, le32]

end Machine

end Sys2Proof
end

