-- ==== Sys2Proof/Laws/Units.lean ====
section
/-! SUPPORT. What the units' functions are bit by bit and byte by byte: the multipliers' bits, the byte lanes of XTIME32's
reduction, words of four bytes under XOR and rotation, a shifted register's words, and linear maps that agree on powers of two. -/

namespace Sys2Proof.Machine

/-- A bit of MULX (R500). -/
theorem mulx_getLsbD (v c : U16) (i : Nat) (hi : i < 16) :
    (mulx v c).getLsbD i = ((!decide (i = 0) && v.getLsbD (i - 1)) ^^ (v.getLsbD 15 && c.getLsbD i)) := by
  unfold mulx; split <;> rename_i h <;> simp [hi] <;> grind

/-- A bit of MULXINV (R501). -/
theorem mulxInv_getLsbD (v d : U16) (i : Nat) :
    (mulxInv v d).getLsbD i = (v.getLsbD (i + 1) ^^ (v.getLsbD 0 && d.getLsbD i)) := by
  unfold mulxInv; cases h : v.getLsbD 0 <;> simp [Nat.add_comm]

/-- The words of a register after a shift (R560). -/
theorem shiftIn_get (l : Lfsr) (w : U16) (k : Fin 16) :
    (shiftIn l w).get k = if h : k.val < 15 then l.get ⟨k.val + 1, by omega⟩ else w := by
  fin_cases k <;> rfl

/-- The top bits of the four lanes, as one bit a lane. -/
theorem laneTops_eq (w : U32) : (w >>> 7) &&& 0x01010101#32 =
    (if w.getLsbD 7 then 1#32 else 0) ^^^ (if w.getLsbD 15 then 0x100#32 else 0) ^^^
      (if w.getLsbD 23 then 0x10000#32 else 0) ^^^ (if w.getLsbD 31 then 0x1000000#32 else 0) := by
  apply BitVec.eq_of_getLsbD_eq
  intro i hi
  generalize h7 : w.getLsbD 7 = b7
  generalize h15 : w.getLsbD 15 = b15
  generalize h23 : w.getLsbD 23 = b23
  generalize h31 : w.getLsbD 31 = b31
  rw [BitVec.getLsbD_and, BitVec.getLsbD_ushiftRight]
  interval_cases i <;> simp only [Nat.reduceAdd, h7, h15, h23, h31] <;> cases b7 <;> cases b15 <;> cases b23 <;>
    cases b31 <;> simp

/-- The multiply by 0x1B copies the constant into each lane whose top bit was set, and no carry leaves a lane (R522, R112). -/
theorem laneTops_mul (w : U32) : ((w >>> 7) &&& 0x01010101#32) * 0x1B#32 =
    ((w >>> 7) &&& 0x01010101#32) ^^^ (((w >>> 7) &&& 0x01010101#32) <<< 1) ^^^
      (((w >>> 7) &&& 0x01010101#32) <<< 3) ^^^ (((w >>> 7) &&& 0x01010101#32) <<< 4) := by
  rw [laneTops_eq]
  generalize w.getLsbD 7 = b7
  generalize w.getLsbD 15 = b15
  generalize w.getLsbD 23 = b23
  generalize w.getLsbD 31 = b31
  revert b7 b15 b23 b31
  decide

/-- XOR byte by byte. -/
theorem byteAt_xor {n : Nat} (x y : BitVec n) (k : Nat) : byteAt (x ^^^ y) k = byteAt x k ^^^ byteAt y k := by
  simp [byteAt, BitVec.extractLsb'_xor]

/-- XOR of words byte by byte. -/
theorem le32_xor (a b c d a' b' c' d' : U8) :
    le32 a b c d ^^^ le32 a' b' c' d' = le32 (a ^^^ a') (b ^^^ b') (c ^^^ c') (d ^^^ d') := by
  apply BitVec.eq_of_getLsbD_eq
  intro i hi
  interval_cases i <;> simp [le32]

/-- Rotation by two bytes. -/
theorem rotl32_le32_16 (b0 b1 b2 b3 : U8) : rotl32 (le32 b0 b1 b2 b3) 16 = le32 b2 b3 b0 b1 := by
  apply BitVec.eq_of_getLsbD_eq
  intro i hi
  interval_cases i <;> simp [rotl32, le32]

/-- Rotation by one byte. -/
theorem rotl32_le32_8 (b0 b1 b2 b3 : U8) : rotl32 (le32 b0 b1 b2 b3) 8 = le32 b3 b0 b1 b2 := by
  apply BitVec.eq_of_getLsbD_eq
  intro i hi
  interval_cases i <;> simp [rotl32, le32]

/-- The gather of R524 in the order the rule writes it. -/
theorem le32_eq_gather_order (b0 b1 b2 b3 : U8) : le32 b0 b1 b2 b3 =
    (b3.setWidth 32 <<< 24) ||| b0.setWidth 32 ||| (b1.setWidth 32 <<< 8) ||| (b2.setWidth 32 <<< 16) := by
  unfold le32
  generalize b3.setWidth 32 <<< 24 = p
  generalize b2.setWidth 32 <<< 16 = q
  generalize b1.setWidth 32 <<< 8 = r
  generalize b0.setWidth 32 = t
  ac_rfl

/-- Two maps that are linear over XOR are equal if they agree on every power of two. -/
theorem linear_ext {n m : Nat} {f g : BitVec n → BitVec m} (hf : ∀ x y, f (x ^^^ y) = f x ^^^ f y)
    (hg : ∀ x y, g (x ^^^ y) = g x ^^^ g y) (h : ∀ i < n, f (BitVec.twoPow n i) = g (BitVec.twoPow n i)) (w : BitVec n) :
    f w = g w := by
  have zero : ∀ {f : BitVec n → BitVec m}, (∀ x y, f (x ^^^ y) = f x ^^^ f y) → f 0 = 0 := by
    intro f hf
    simpa using hf 0 0
  have below : ∀ k ≤ n, ∀ w : BitVec n, (∀ i, k ≤ i → w.getLsbD i = false) → f w = g w := by
    intro k
    induction k with
    | zero =>
      intro _ w hw
      have : w = 0 := by
        apply BitVec.eq_of_getLsbD_eq
        intro i _
        simpa using hw i (Nat.zero_le _)
      rw [this, zero hf, zero hg]
    | succ k ih =>
      intro hk w hw
      by_cases hb : w.getLsbD k = true
      · have e : w = (w ^^^ BitVec.twoPow n k) ^^^ BitVec.twoPow n k := by
          rw [BitVec.xor_assoc, BitVec.xor_self, BitVec.xor_zero]
        rw [e, hf, hg, h k (by omega), ih (by omega)]
        intro i hi
        rw [BitVec.getLsbD_xor, BitVec.getLsbD_twoPow]
        by_cases hik : i = k
        · subst hik; simp only [hb]; simp; omega
        · rw [hw i (by omega)]; simp; omega
      · apply ih (by omega)
        intro i hi
        by_cases hik : i = k
        · subst hik; simpa using hb
        · exact hw i (by omega)
  exact below n (Nat.le_refl _) w fun i hi => BitVec.getLsbD_of_ge _ _ hi

end Sys2Proof.Machine
end

