-- ==== Sys2Proof/Tests/Slice0.lean ====
section
/-! SUPPORT. The model's own tests: well-formedness, command words written out bit by bit, at most two small checks an instruction
with results from the spec's vectors (95 and the rules' own examples), and a named witness for the hypotheses of each statement. -/

namespace Sys2Proof.Tests

open Sys2Proof.Machine

/-! ### States the tests start from -/

/-- The registers of 95 sections 2.4 to 2.6: `A[k] = k`, `B[k] = 0x1000 + k`, and the FSM registers of 2.5. -/
def vectorCipher : Cipher where
  a := Lfsr.ofFn fun k => BitVec.ofNat 16 k.val
  b := Lfsr.ofFn fun k => BitVec.ofNat 16 (0x1000 + k.val)
  r1 := ⟨0x11111111, 0x22222222, 0x33333333, 0x44444444⟩
  r2 := ⟨0xffffffff, 0x80000000, 0x00000001, 0x00000000⟩
  r3 := ⟨0x01010101, 0, 0, 0xffffffff⟩
  k1 := .fill 0
  k2 := .fill 0

/-- A READY core with those registers. -/
def readyState : State := { writeCipher State.reset vectorCipher with phase := .ready }

/-- A FAULTED core, after a reserved word. -/
def faultedState : State := raiseFault readyState .reservedCommand

/-- The state with a command word on the port. -/
def on (s : State) (cw : U8) : State := driveWord s cw

/-- The state with `rst` asserted. -/
def onReset (s : State) : State := { s with ports := ⟨true, 0x02, 0, 0⟩ }

/-- The other parameters: one LFSR step a block, zero round keys. -/
def otherConfig (s : State) : State := { s with cfg := ⟨.one, .zero⟩ }

/-- A check of the next state of an outcome; a stop fails it. -/
def nextIs (r : Result) (p : State → Bool) : Bool :=
  match r with
  | .next t => p t
  | .fault _ => false
  | .refused _ => false

/-- A check that an outcome is a given fault. -/
def faultIs (r : Result) (f : Fault) : Bool :=
  match r with
  | .next _ => false
  | .fault g => decide (g = f)
  | .refused _ => false

/-! ### Well-formedness -/

theorem test_wellFormed_commands : WellFormed .nop ∧ WellFormed (.init false) ∧ WellFormed (.init true) ∧ WellFormed .next := by
  decide

/-- R407: none of the eighteen internal operations is a command. -/
theorem test_illFormed_internal : ∀ i ∈ [Instr.mulxA 0, .mulxInvA 0, .mulxB 0, .mulxInvB 0, .sbox 0, .xtime32 0, .mixcol32 0,
    .aesr (.fill 0) (.fill 0), .sigma (.fill 0), .lfsrStep, .lfsrAdvance, .fsmAdvance, .ksCombine 0, .genBlock,
    .loadKeyIv 0 0 false, .roundKeyDerive 0, .warmupFold 0, .keyInject 0 .low], ¬ WellFormed i ∧ encode i = none := by decide

/-! ### Decoding: words from R401 and R403, bit 7 first -/

theorem test_decode_nop : decode 0b00000000 = .ok .nop := rfl
theorem test_decode_init_standard : decode 0b00000001 = .ok (.init false) := rfl
theorem test_decode_init_alternate : decode 0b00000101 = .ok (.init true) := rfl
theorem test_decode_next : decode 0b00000010 = .ok .next := rfl
theorem test_decode_op_reserved : decode 0b00000011 = .error .opReserved ∧ decode 0b00000111 = .error .opReserved := ⟨rfl, rfl⟩
theorem test_decode_alt_reserved : decode 0b00000100 = .error .altWithoutInit ∧ decode 0b00000110 = .error .altWithoutInit :=
  ⟨rfl, rfl⟩
theorem test_decode_rsv_reserved : decode 0b00001000 = .error .rsvNonzero ∧ decode 0b11111111 = .error .rsvNonzero := ⟨rfl, rfl⟩
theorem test_tableWords : decodeTableWord 8 0 = some .nop ∧ decodeTableWord 8 1 = some (.init false) ∧
    decodeTableWord 8 5 = some (.init true) ∧ decodeTableWord 8 2 = some .next ∧ decodeTableWord 8 6 = none := by decide

/-- A row's word put on the port of the reset machine is run by the very next step: NEXT before INIT faults (95 section 2.7). -/
theorem test_withFetchWord_runs : nextIs (step (State.reset.withFetchWord 8 2)) (fun t => statusWord t == 0x0A) = true := by decide

/-! ### Values from the rules and from 95 section 2 -/

/-- R504, 95 section 2.1. -/
theorem test_mulxA : nextIs (exec (.mulxA 0x8001) State.reset) (fun t => t.unitOut == .half 0x990D) = true := by decide
/-- R505. -/
theorem test_mulxInvA : nextIs (exec (.mulxInvA 0x8001) State.reset) (fun t => t.unitOut == .half 0x8C87) = true := by decide
/-- R506. -/
theorem test_mulxB : nextIs (exec (.mulxB 0x8001) State.reset) (fun t => t.unitOut == .half 0xC961) = true := by decide
/-- R507. -/
theorem test_mulxInvB : nextIs (exec (.mulxInvB 0x8001) State.reset) (fun t => t.unitOut == .half 0xA4B1) = true := by decide
/-- The reduction boundary of 95 section 2.1, row 7fff. -/
theorem test_multipliers_boundary : mulxA 0x7fff = 0xfffe ∧ mulxInvA 0x7fff = 0xf378 ∧ mulxB 0x7fff = 0xfffe ∧
    mulxInvB 0x7fff = 0xdb4e := by decide
/-- R521. -/
theorem test_sbox : nextIs (exec (.sbox 0x53) State.reset) (fun t => t.unitOut == .byte 0xED) = true := by decide
/-- R522. -/
theorem test_xtime32 : nextIs (exec (.xtime32 0x01020380) State.reset) (fun t => t.unitOut == .word 0x0204061B) = true := by decide
/-- R523. -/
theorem test_mixcol32 : nextIs (exec (.mixcol32 0xDB455313) State.reset) (fun t => t.unitOut == .word 0xBCA14D8E) = true := by
  decide
/-- The FIPS-197 round of 95 section 2.2. -/
theorem test_aesr_fips : nextIs (exec (.aesr ⟨0xbee33d19, 0x2be2f4a0, 0x2a8dc69a, 0x0848f8e9⟩
    ⟨0x17fefaa0, 0xb12c5488, 0x3939a323, 0x05766c2a⟩) State.reset)
    (fun t => t.unitOut == .quad ⟨0xf27f9ca4, 0x2b359f68, 0x43ea5b6b, 0x49506a02⟩) = true := by decide
/-- 95 section 2.3, second row. -/
theorem test_sigma : nextIs (exec (.sigma ⟨0xdeadbeef, 0x01234567, 0x89abcdef, 0x00000000⟩) State.reset)
    (fun t => t.unitOut == .quad ⟨0x00ef67ef, 0x00cd45be, 0x00ab23ad, 0x008901de⟩) = true := by decide
/-- 95 section 2.4: the fresh words of one step, and word 0 gone. -/
theorem test_lfsrStep : nextIs (exec .lfsrStep readyState) (fun t => t.a.val.get 15 == 0x1005 && t.b.val.get 15 == 0x3807 &&
    t.a.val.get 0 == 0x0001 && t.b.val.get 14 == 0x100f) = true := by decide
/-- 95 section 2.4: the block advance. -/
theorem test_lfsrAdvance : nextIs (exec .lfsrAdvance readyState) (fun t => t.a.val.get 9 == 0xdc82 && t.a.val.get 15 == 0xdc81 &&
    t.b.val.get 15 == 0xdcb5 && t.a.val.get 0 == 0x0008) = true := by decide
/-- The literal reading: one step a block moves every word one place (R108, R561). -/
theorem test_lfsrAdvance_one : nextIs (exec .lfsrAdvance (otherConfig readyState))
    (fun t => t.a.val.get 15 == 0x1005 && t.a.val.get 0 == 0x0001) = true := by decide
/-- 95 section 2.5. -/
theorem test_fsmAdvance : nextIs (exec .fsmAdvance readyState) (fun t =>
    t.r1.val == ⟨0xf9050200, 0xff000001, 0xf8050300, 0xff008001⟩ &&
    t.r2.val == ⟨0xfba1fa69, 0x69fba1fa, 0xfa69fba1, 0xa1fa69fb⟩ &&
    t.r3.val == ⟨0xfc161689, 0x89fc1616, 0x707f4d86, 0x161689fc⟩) = true := by decide
/-- 95 section 2.6: lane 0. -/
theorem test_ksCombine : nextIs (exec (.ksCombine 0) readyState) (fun t => t.unitOut == .word 0xdee5dee6) = true := by decide
/-- 95 section 2.6: the block of one generation, byte 0 first. -/
theorem test_genBlock : nextIs (exec .genBlock readyState) (fun t =>
    t.unitOut == .block 0x54535452_4340433e_b22d322c_dee5dee6) = true := by decide
/-- R622: `key[0] = 0x50`, `key[1] = 0x51` gives `A[8] = 0x5150`, and key byte 16 is the low byte of `B[8]`. -/
theorem test_loadKeyIv : nextIs (exec (.loadKeyIv 0x0a00000000000000000000000000005150 0x0123 false) State.reset) (fun t =>
    t.a.val.get 8 == 0x5150 && t.a.val.get 0 == 0x0123 && t.b.val.get 0 == 0) = true := by decide
/-- R623: `B[0]` and `B[7]` of the alternate constant; the high half of the key is in `B[8..16)`. -/
theorem test_loadKeyIv_alternate : nextIs (exec (.loadKeyIv (0x1a0a <<< 128) 0 true) State.reset) (fun t =>
    t.b.val.get 0 == 0x6C41 && t.b.val.get 7 == 0x6D6F && t.b.val.get 8 == 0x1a0a) = true := by decide
/-- R625: `K1[0] = 0x53525150`; 95 section 3.1: `K2[0] = 0x3a2a1a0a`. -/
theorem test_roundKeyDerive : nextIs (exec (.roundKeyDerive (0x53525150 ||| (0x3a2a1a0a <<< 128))) State.reset) (fun t =>
    t.k1.val.get 0 == 0x53525150 && t.k2.val.get 0 == 0x3a2a1a0a) = true := by decide
/-- R625: the ZERO branch. -/
theorem test_roundKeyDerive_zero : nextIs (exec (.roundKeyDerive 0x53525150) (otherConfig State.reset))
    (fun t => t.k1.val == .fill 0 && t.k2.val == .fill 0) = true := by decide
/-- R627: bytes 0 and 1 go into `A[8]`, byte 0 low; `A[7]` stays. -/
theorem test_warmupFold : nextIs (exec (.warmupFold 0x1201) readyState) (fun t =>
    t.a.val.get 8 == 0x1209 && t.a.val.get 7 == 0x0007) = true := by decide
/-- R628: the low half's word 0 into `R1[0]`. -/
theorem test_keyInject_low : nextIs (exec (.keyInject 0x01 .low) readyState) (fun t => t.r1.val.get 0 == 0x11111110) = true := by
  decide
/-- R628: the high half is bytes 16 to 31. -/
theorem test_keyInject_high : nextIs (exec (.keyInject (0x01 <<< 128) .high) readyState)
    (fun t => t.r1.val.get 0 == 0x11111110) = true := by decide

/-! ### Commands: 95 sections 1 and 2.7 -/

theorem test_nop_uninit : exec .nop State.reset = .next State.reset := rfl
/-- 95 section 1.3: R1 after INIT with a zero key and nonce, and the status word. -/
theorem test_init_zero_key : nextIs (exec (.init false) State.reset) (fun t =>
    t.r1.val == ⟨0x18d61911, 0x6c74661d, 0x8a96ef5d, 0x1c35f7f7⟩ && statusWord t == 0x01) = true := by decide +kernel
/-- 95 section 3.3: R1 after INIT.ALT with a zero key and nonce. -/
theorem test_init_alternate : nextIs (exec (.init true) State.reset) (fun t =>
    t.r1.val == ⟨0x5ec592b8, 0xe568e25e, 0x67b6351f, 0xaed31f1a⟩) = true := by decide +kernel
/-- 95 section 2.6 through NEXT: the block on the keystream port, and the status word. -/
theorem test_next_ready : nextIs (exec .next readyState) (fun t =>
    (match readKeystream t with
     | .ok z => blockBytes z == [0xe6, 0xde, 0xe5, 0xde, 0x2c, 0x32, 0x2d, 0xb2, 0x3e, 0x43, 0x40, 0x43, 0x52, 0x54, 0x53, 0x54]
     | .error _ => false) && statusWord t == 0x05) = true := by decide
theorem test_next_uninit : nextIs (exec .next State.reset) (fun t => statusWord t == 0x0A && t.r1 == State.reset.r1) = true := by
  decide
/-- 95 section 1.1: the known answer, the first block of the zero key and nonce. -/
theorem test_known_answer : blockBytes (genBlock .default (initCipher .default 0 0 false)).1 =
    [0x69, 0xca, 0x6d, 0xaf, 0x9a, 0xe3, 0xb7, 0x2d, 0xb1, 0x34, 0xa8, 0x5a, 0x83, 0x7e, 0x41, 0x9d] := by decide +kernel
/-- A reserved word faults in READY (R631), and after it nothing steps but reset (R704). -/
theorem test_reserved_word : nextIs (step (on readyState 0x06)) (fun t => statusWord t == 0x12) = true := by decide
theorem test_faulted_stuck : faultIs (step (on faultedState 0x01)) .noStepInFaulted = true := by decide
theorem test_reset_leaves_faulted : nextIs (step (onReset faultedState)) (fun t => statusWord t == 0x00) = true := by decide
theorem test_read_of_no_value : faultIs (exec .genBlock State.reset) (.noValue .a) = true := by decide
theorem test_keystream_port_invalid : readKeystream readyState = .error .ksNotValid := rfl

/-! ### The host's notation (R408, R409) -/

theorem test_read_word : readLine ['a', ':', ' ', '.', 'W', 'o', 'r', 'd', ' ', '0', '6', ' ', ';', ' ', 'x'] = some [.word 0x06] := by
  decide
theorem test_read_keystream : readLine ['K', 'E', 'Y', 'S', 'T', 'R', 'E', 'A', 'M', ' ', '2', '0'] = some [.keystream 20] := by decide
theorem test_keystream_20_is_two : transactions (.keystream 20) = [issueWord 0x02, issueWord 0x02] := by decide
/-- Blanks may stand around the symbols of an INIT, and spaces inside its key (R408, log entry 15). -/
theorem test_read_init : readLine (['i', 'n', 'i', 't', ' ', 'k', 'e', 'y', '=', ' ', '0', '1', ' ', '0', '2'] ++ List.replicate 60 '0' ++
    [' ', ',', '\t', 'n', 'o', 'n', 'c', 'e', '=', ' ', '0', '3'] ++ List.replicate 30 '0') = some [.init 0x0201 0x03] := by decide
/-- P5 of 95: a NEXT in FAULTED has no step, the status word stays, and the host's reset is next. -/
theorem test_turn_goes_on : nextIs (hostTurn { on faultedState 0x02 with pending := [issueReset] })
    (fun t => statusWord t == 0x12 && t.ports == issueReset) = true := by decide
theorem test_read_bad : readLine ['N', 'O', 'P', ' ', '1'] = none ∧ readLine ['J', 'M', 'P'] = none := by decide

/-! ### Witnesses: a concrete state and operands for the hypotheses of each statement -/

theorem readyState_written : CipherWritten readyState := by decide
theorem readyState_inv : Inv readyState := by constructor <;> decide
theorem reset_inv : Inv State.reset := by constructor <;> decide
theorem faultedState_inv : Inv faultedState := by constructor <;> decide

/-- ResetFromEveryPhase, FaultedIsStuck, KeystreamPort. -/
theorem witness_rst : (onReset faultedState).ports.rst = true ∧ (onReset faultedState).phase = .faulted ∧
    ∃ t, step (onReset faultedState) = .next t := ⟨rfl, rfl, _, rfl⟩
/-- FaultedIsStuck, NopResult, NextResult, LifeCycle in FAULTED. -/
theorem witness_faulted : (on faultedState 0x02).phase = .faulted ∧ (on faultedState 0x02).ports.rst = false := ⟨rfl, rfl⟩
/-- StepKeepsInvariant: one state for each kind of step. -/
theorem witness_inv_step : (Inv State.reset ∧ ∃ t, step State.reset = .next t) ∧
    (Inv (on readyState 0x02) ∧ ∃ t, step (on readyState 0x02) = .next t) ∧
    (Inv (on readyState 0x05) ∧ ∃ t, step (on readyState 0x05) = .next t) ∧
    (Inv (on readyState 0xFF) ∧ ∃ t, step (on readyState 0xFF) = .next t) :=
  ⟨⟨reset_inv, _, rfl⟩, ⟨by constructor <;> decide, _, rfl⟩, ⟨by constructor <;> decide, _, rfl⟩,
    ⟨by constructor <;> decide, _, rfl⟩⟩
/-- StepNeverReadsNoValue: both outcomes. -/
theorem witness_inv_outcomes : (∃ t, step (on State.reset 0x02) = .next t) ∧ Inv faultedState ∧
    step (on faultedState 0x00) = .fault .noStepInFaulted := ⟨⟨_, rfl⟩, faultedState_inv, rfl⟩
/-- StepRunsDecoded: a next state and a fault. -/
theorem witness_step_decoded :
    (decode (on readyState 0x02).ports.cmdIn = .ok .next ∧ ∃ t, exec .next (on readyState 0x02) = .next t) ∧
    (decode (on faultedState 0x00).ports.cmdIn = .ok .nop ∧ exec .nop (on faultedState 0x00) = .fault .noStepInFaulted) :=
  ⟨⟨rfl, _, rfl⟩, rfl, rfl⟩
/-- HostOrder: a list with a transaction, and an empty one. -/
theorem witness_host_order : (∃ t, step { State.reset with pending := [issueWord 0x02] } = .next t) ∧
    (State.reset.pending = [] ∧ ∃ t, step State.reset = .next t) := ⟨⟨_, rfl⟩, rfl, _, rfl⟩
/-- DecodeEncodeAgree: a command, a word that decodes, an internal operation. -/
theorem witness_decode_encode : WellFormed (.init true) ∧ decode 0x05 = .ok (.init true) ∧ ¬ WellFormed .genBlock := by
  exact ⟨by decide, rfl, by decide⟩
/-- OpcodeMap: the first and the last reserved word, and both words of the INIT row. -/
theorem witness_opcode_map : ((0x03 : U8) ≠ 0x00 ∧ (0x03 : U8) ≠ 0x01 ∧ (0x03 : U8) ≠ 0x05 ∧ (0x03 : U8) ≠ 0x02) ∧
    ((0xFF : U8) ≠ 0x00 ∧ (0xFF : U8) ≠ 0x01 ∧ (0xFF : U8) ≠ 0x05 ∧ (0xFF : U8) ≠ 0x02) ∧
    (0x01 : U8) &&& 0xFB = 0x01 ∧ (0x05 : U8) &&& 0xFB = 0x01 := by decide
/-- UnitOperationsComplete, LfsrStepResult, LfsrAdvanceResult, FsmAdvanceResult, GenBlockResult, WarmupFoldResult, KeyInjectResult,
NextResult, KeystreamIsAFunction, KeystreamPort: a READY state whose registers hold values, with the default parameters. -/
theorem witness_ready : readyState.phase = .ready ∧ CipherWritten readyState ∧ readyState.cfg.lfsrStepsPerBlock = .eight ∧
    readyState.cfg.roundKeySource = .keyDerived ∧ ∃ t, exec .next readyState = .next t := ⟨rfl, readyState_written, rfl, rfl, _, rfl⟩
/-- LfsrAdvanceResult, RoundKeyDeriveResult: the same with the other parameters. -/
theorem witness_other_config : CipherWritten (otherConfig readyState) ∧ (otherConfig readyState).cfg.lfsrStepsPerBlock = .one ∧
    (otherConfig readyState).cfg.roundKeySource = .zero := ⟨readyState_written, rfl, rfl⟩
/-- UnitOperationsComplete: KS_COMBINE needs B, R1 and R2 only. -/
theorem witness_combiner_alone :
    let s := { readyState with a := .blank (.fill 0), r3 := .blank (.fill 0), k1 := .blank (.fill 0) }
    s.b.written = true ∧ s.r1.written = true ∧ s.r2.written = true ∧ s.a.written = false := by decide
/-- AesrLaws (c), from two states. -/
theorem witness_aesr : (∃ t, exec (.aesr (.fill 1) (.fill 2)) State.reset = .next t) ∧
    ∃ t, exec (.aesr (.fill 1) (.fill 2)) readyState = .next t := ⟨⟨_, rfl⟩, _, rfl⟩
/-- LfsrStepResult, LfsrShiftProperty, LfsrParallelForm: the last index each range admits. -/
theorem witness_indices : (14 : Fin 16).val < 15 ∧ (14 : Fin 16).val + 1 < 16 ∧
    (7 : Fin 16).val + Config.default.lfsrStepsPerBlock.toNat < 16 ∧
    (14 : Fin 16).val + (⟨.one, .zero⟩ : Config).lfsrStepsPerBlock.toNat < 16 ∧ (7 : Fin 16).val < 8 ∧ ¬ (8 : Fin 16).val < 8 := by
  decide
/-- FsmAdvanceExamples: the sum that wraps. -/
theorem witness_fsm_wrap : t2 (.fill 0) 0 ^^^ (Quad.fill 0xFFFFFFFF).get 0 = 0xFFFFFFFF ∧ (Quad.fill 1).get 0 = 1 := by decide
/-- KsCombineValues: the rule's example. -/
theorem witness_combine_example :
    let b := Lfsr.ofFn fun k => if k = 9 then 0x1234 else 0x5678
    b.get 9 = 0x1234 ∧ b.get 8 = 0x5678 ∧ (Quad.fill 0x0fedcba9).get 0 = 0x0fedcba9 ∧ (Quad.fill 0xffffffff).get 0 = 0xffffffff := by
  decide
/-- LoadKeyIvResult, RoundKeyDeriveResult: a key that begins 50 51 52 53. -/
theorem witness_key_bytes : byteAt (0x53525150 : U256) 0 = 0x50 ∧ byteAt (0x53525150 : U256) 1 = 0x51 ∧
    byteAt (0x53525150 : U256) 2 = 0x52 ∧ byteAt (0x53525150 : U256) 3 = 0x53 := by decide
/-- WarmupSchedule: the last generation without an injection, the two with one. -/
theorem witness_warmup_indices : (13 < 16 ∧ 13 < 14) ∧ (14 < 16 ∧ 14 = 14) ∧ (15 < 16 ∧ 15 = 15) := by decide
/-- InitResult, InitForgetsThePast, KeystreamIsAFunction: from UNINIT and from READY. -/
theorem witness_init : State.reset.phase ≠ .faulted ∧ readyState.phase ≠ .faulted ∧ State.reset.cfg = readyState.cfg ∧
    State.reset.ports = readyState.ports ∧ (∃ t, exec (.init true) State.reset = .next t) ∧
    ∃ t, exec (.init true) readyState = .next t := ⟨by decide, by decide, rfl, rfl, ⟨_, rfl⟩, _, rfl⟩
/-- InitResult: the lowest index of the half that `alt` leaves alone. -/
theorem witness_upper_half : 8 ≤ (8 : Fin 16).val := by decide
/-- NextResult: the three phases. -/
theorem witness_next_phases : readyState.phase = .ready ∧ State.reset.phase = .uninit ∧ faultedState.phase = .faulted := by decide
/-- ReservedWordFaults, LifeCycle: in UNINIT and in READY. -/
theorem witness_reserved : decode (on State.reset 0x03).ports.cmdIn = .error .opReserved ∧ (on State.reset 0x03).ports.rst = false ∧
    (on State.reset 0x03).phase ≠ .faulted ∧ decode (on readyState 0x08).ports.cmdIn = .error .rsvNonzero ∧
    (on readyState 0x08).phase ≠ .faulted := ⟨rfl, rfl, by decide, rfl, by decide⟩
/-- FaultEntryIsPrecise: a step into FAULTED by NEXT in UNINIT, and one by a reserved word. -/
theorem witness_fault_entry : (∃ t, step (on State.reset 0x02) = .next t ∧ t.phase = .faulted) ∧
    ∃ t, step (on readyState 0x06) = .next t ∧ t.phase = .faulted := ⟨⟨_, rfl, rfl⟩, _, rfl, rfl⟩
/-- LifeCycle: a step by each command. -/
theorem witness_life_cycle : (∃ t, step (on State.reset 0x01) = .next t) ∧ (∃ t, step (on State.reset 0x00) = .next t) ∧
    (∃ t, step (on State.reset 0x02) = .next t) ∧ (∃ t, step (on readyState 0x02) = .next t) ∧
    (Inv (on readyState 0x02) ∧ (on readyState 0x02).phase ≠ .faulted) :=
  ⟨⟨_, rfl⟩, ⟨_, rfl⟩, ⟨_, rfl⟩, ⟨_, rfl⟩, by constructor <;> decide, by decide⟩
/-- RoundKeysFixed, ParametersFixed: a NEXT. -/
theorem witness_keys_fixed : (∃ t, step (on readyState 0x02) = .next t) ∧ (on readyState 0x02).ports.rst = false ∧
    decode (on readyState 0x02).ports.cmdIn = .ok .next := ⟨⟨_, rfl⟩, rfl, rfl⟩
/-- CommandsIgnoreResultLines: a command with a next state, and one that stops. -/
theorem witness_commands : WellFormed .next ∧ (∃ t, exec .next readyState = .next t) ∧
    exec .next faultedState = .fault .noStepInFaulted := ⟨by decide, ⟨_, rfl⟩, rfl⟩
/-- KeystreamPort: ks_valid 0. -/
theorem witness_ks_invalid : State.reset.ksValid = false ∧ ∃ t, exec (.init false) State.reset = .next t := ⟨rfl, _, rfl⟩
/-- ReadsOfNoValueFault: for each list, its first register and its last. -/
theorem witness_no_value :
    let noB := { readyState with b := .blank (.fill 0) }
    let noR2 := { readyState with r2 := .blank (.fill 0) }
    let noK2 := { readyState with k2 := .blank (.fill 0) }
    firstBlank State.reset [.a, .b] = some .a ∧ firstBlank noB [.a, .b] = some .b ∧
    firstBlank State.reset [.a, .r1, .r2, .r3, .k1, .k2] = some .a ∧ firstBlank noK2 [.a, .r1, .r2, .r3, .k1, .k2] = some .k2 ∧
    firstBlank State.reset [.b, .r1, .r2] = some .b ∧ firstBlank noR2 [.b, .r1, .r2] = some .r2 ∧
    firstBlank State.reset [.a, .b, .r1, .r2, .r3, .k1, .k2] = some .a ∧ noK2.phase = .ready ∧
    firstBlank noK2 [.a, .b, .r1, .r2, .r3, .k1, .k2] = some .k2 ∧ firstBlank State.reset [.a] = some .a ∧
    firstBlank State.reset [.r1] = some .r1 := by decide
/-- ResetAfterStuckCommand: P5 after its reserved word, a NEXT on the port and the reset to come; and a turn with a step. -/
theorem witness_stuck_then_reset :
    let s := { on faultedState 0x02 with pending := [issueReset, issueWord 0x00] }
    s.phase = .faulted ∧ s.ports.rst = false ∧ s.pending = issueReset :: [issueWord 0x00] ∧ issueReset.rst = true ∧
    ∃ t, step State.reset = .next t := ⟨rfl, rfl, rfl, rfl, _, rfl⟩
/-- PseudoInstructions: two blocks for twenty bytes and none for none; the last byte kept; a transaction of each list. -/
theorem witness_kept : 16 * ([0, 0] : List U128).length ≥ 20 ∧ 16 * ([] : List U128).length ≥ 0 ∧ 19 < 20 ∧
    issueWord 0x02 ∈ transactions (.keystream 20) ∧ issueWord 0x02 ∈ transactions (.skip 1) ∧
    issueWord 0x02 ∈ transactions .next := by decide

end Sys2Proof.Tests
end

namespace Sys2Proof.Machine

/-! ### What a command's step does, one inversion lemma per command -/

/-- A NOP that has a step changes nothing (R621). -/
theorem execNop_eq_next {s t : State} : execNop s = .next t ↔ s.phase ≠ .faulted ∧ t = s := by
  rw [execNop, command_eq_next, Host.Outcome.next.injEq, eq_comm (a := s)]

/-- An INIT that has a step loads the warmed-up registers, takes back the block and enters READY (R629). -/
theorem execInit_eq_next {alt : Bool} {s t : State} :
    execInit alt s = .next t ↔ s.phase ≠ .faulted ∧
      t = { writeCipher s (initCipher s.cfg s.ports.keyIn s.ports.nonceIn alt) with
            ksOut := .blank 0, ksValid := false, phase := .ready } := by
  rw [execInit, command_eq_next, Host.Outcome.next.injEq, eq_comm (b := t)]

/-- A NEXT that has a step raises NOT_INITIALIZED in UNINIT; in READY it reads seven registers that hold values, and runs one
generation (R630). -/
theorem execNext_cases {s t : State} (h : execNext s = .next t) :
    (s.phase = .uninit ∧ t = raiseFault s .notInitialized) ∨
    (s.phase = .ready ∧ CipherWritten s ∧
      t = { writeGenerated s (genBlock s.cfg (cipherOf s)).2 with
            ksOut := regWrite (genBlock s.cfg (cipherOf s)).1, ksValid := true }) := by
  obtain ⟨hrun, hbody⟩ := command_eq_next.mp h
  cases hp : s.phase with
  | uninit => exact .inl ⟨rfl, by simpa [hp] using hbody.symm⟩
  | faulted => exact absurd hp hrun
  | ready =>
    rw [hp, if_neg (by decide), finish_eq_next] at hbody
    cases hc : readCipher s with
    | error f => simp [hc, Except.map] at hbody
    | ok c =>
      obtain ⟨hw, rfl⟩ := readCipher_eq_ok hc
      exact .inr ⟨rfl, hw, by simpa [hc, Except.map] using hbody.symm⟩

/-! ### The parameters (R108, R212) -/

/-- None of the three commands a word decodes to changes the parameters (R212). -/
theorem cfg_of_exec_decoded {w : U8} {i : Instr} {s t : State} (hd : decode w = .ok i) (h : exec i s = .next t) :
    t.cfg = s.cfg := by
  obtain rfl | ⟨alt, rfl⟩ | rfl := decode_ok_cases hd
  case inl =>
    obtain ⟨-, rfl⟩ := execNop_eq_next.mp h
    rfl
  case inr.inl =>
    obtain ⟨-, rfl⟩ := execInit_eq_next.mp h
    simp only [writeCipher_cfg]
  case inr.inr =>
    obtain ⟨-, rfl⟩ | ⟨-, -, rfl⟩ := execNext_cases h
    · simp only [raiseFault_cfg]
    · simp only [writeGenerated_cfg]

/-- Settles O53: a reset, a decoded command and a reserved word each keep the parameters, and so does the host's next transaction. -/
theorem parametersFixed : Obligations.ParametersFixed := by
  intro s t h
  obtain ⟨-, rfl⟩ | ⟨-, i, u, hd, hu, rfl⟩ | ⟨-, r, -, -, rfl⟩ := step_cases h
  · rw [hostAdvance_cfg, resetCore_cfg]
  · rw [hostAdvance_cfg, cfg_of_exec_decoded hd hu]
  · rw [hostAdvance_cfg, raiseFault_cfg]

end Sys2Proof.Machine

namespace Sys2Proof.Machine

/-! ### The invariant holds after reset and every step keeps it (R207, R208, R211, R213) -/

/-- A register that holds a value has nothing behind the mark. -/
@[simp] theorem canonical_regWrite {α : Type} (contents v : α) : Canonical contents (regWrite v) := nofun

/-- A register left with no value over the reset contents is as reset left it. -/
@[simp] theorem canonical_blank {α : Type} (contents : α) : Canonical contents (.blank contents) := fun _ => rfl

/-- Reset leaves none of the seven cipher registers a value (R218). -/
theorem reset_cipherBlank : CipherBlank State.reset := ⟨rfl, rfl, rfl, rfl, rfl, rfl, rfl⟩

/-- Settles O3: reset leaves UNINIT without a fault or a block, and every register with no value over its reset contents. -/
theorem resetMeetsInvariant : Obligations.ResetMeetsInvariant where
  fault_iff_faulted := by decide
  valid_not_uninit := nofun
  valid_iff_value := rfl
  ready_written := nofun
  uninit_blank := fun _ => reset_cipherBlank
  all_or_none := .inr reset_cipherBlank
  canonical := ⟨canonical_blank _, canonical_blank _, canonical_blank _, canonical_blank _, canonical_blank _,
    canonical_blank _, canonical_blank _, canonical_blank _⟩

/-- The host's next transaction keeps the invariant, which speaks of no port (R313). -/
theorem inv_hostAdvance {s : State} (h : Inv s) : Inv (hostAdvance s) := by
  unfold hostAdvance
  split
  · exact { h with }
  · exact { h with }

/-- A reset core meets the invariant, whatever state it was in (R800). -/
theorem inv_resetCore (s : State) : Inv (resetCore s) := { resetMeetsInvariant with }

/-- Fault entry keeps the invariant: it writes the phase and a code that is not NONE, and no register (R702). -/
theorem inv_raiseFault {s : State} {code : FaultCode} (h : Inv s) (hcode : code ≠ .none) : Inv (raiseFault s code) where
  fault_iff_faulted := by simpa using hcode
  valid_not_uninit := nofun
  valid_iff_value := h.valid_iff_value
  ready_written := nofun
  uninit_blank := nofun
  all_or_none := h.all_or_none
  canonical := h.canonical

/-- Outside FAULTED the invariant leaves the fault code NONE (R207). -/
theorem faultCode_of_running {s : State} (h : Inv s) (hrun : s.phase ≠ .faulted) : s.faultCode = .none := by
  by_contra hcode
  exact hrun (h.fault_iff_faulted.mp hcode)

/-- INIT's write gives all seven registers a value (R629). -/
theorem cipherWritten_writeCipher (s : State) (c : Cipher) : CipherWritten (writeCipher s c) :=
  ⟨rfl, rfl, rfl, rfl, rfl, rfl, rfl⟩

/-- What INIT leaves meets the invariant, whatever values it writes: all seven registers hold one, and ks_out none (R629). -/
theorem inv_writeCipher_ready {s : State} (hcode : s.faultCode = .none) (c : Cipher) :
    Inv { writeCipher s c with ksOut := .blank 0, ksValid := false, phase := .ready } where
  fault_iff_faulted := by simp [hcode]
  valid_not_uninit := nofun
  valid_iff_value := rfl
  ready_written := fun _ => cipherWritten_writeCipher s c
  uninit_blank := nofun
  all_or_none := .inl (cipherWritten_writeCipher s c)
  canonical := by simp

/-- What NEXT leaves in READY meets the invariant, whatever block and values it writes: the round keys keep theirs (R630). -/
theorem inv_writeGenerated_block {s : State} (h : Inv s) (hp : s.phase = .ready) (c : Cipher) (z : U128) :
    Inv { writeGenerated s c with ksOut := regWrite z, ksValid := true } := by
  obtain ⟨-, -, -, -, -, hk1, hk2⟩ := h.ready_written hp
  obtain ⟨-, -, -, -, -, hck1, hck2, -⟩ := h.canonical
  have hw : CipherWritten { writeGenerated s c with ksOut := regWrite z, ksValid := true } :=
    ⟨rfl, rfl, rfl, rfl, rfl, hk1, hk2⟩
  exact
    { fault_iff_faulted := h.fault_iff_faulted
      valid_not_uninit := fun _ hu => by simp [hp] at hu
      valid_iff_value := rfl
      ready_written := fun _ => hw
      uninit_blank := fun hu => by simp [hp] at hu
      all_or_none := .inl hw
      canonical := ⟨canonical_regWrite _ _, canonical_regWrite _ _, canonical_regWrite _ _, canonical_regWrite _ _,
        canonical_regWrite _ _, hck1, hck2, canonical_regWrite _ _⟩ }

/-- Each of the three commands a word decodes to keeps the invariant. -/
theorem inv_of_exec_decoded {w : U8} {i : Instr} {s t : State} (hd : decode w = .ok i) (h : Inv s)
    (hx : exec i s = .next t) : Inv t := by
  obtain rfl | ⟨alt, rfl⟩ | rfl := decode_ok_cases hd
  case inl =>
    obtain ⟨-, rfl⟩ := execNop_eq_next.mp hx
    exact h
  case inr.inl =>
    obtain ⟨hrun, rfl⟩ := execInit_eq_next.mp hx
    exact inv_writeCipher_ready (faultCode_of_running h hrun) _
  case inr.inr =>
    obtain ⟨-, rfl⟩ | ⟨hp, -, rfl⟩ := execNext_cases hx
    · exact inv_raiseFault h nofun
    · exact inv_writeGenerated_block h hp _ _

/-- Settles O4: a reset starts the invariant afresh, a decoded command and the fault of a reserved word keep it, and the host's
next transaction is no part of it. -/
theorem stepKeepsInvariant : Obligations.StepKeepsInvariant := by
  intro s t h hstep
  obtain ⟨-, rfl⟩ | ⟨-, i, u, hd, hu, rfl⟩ | ⟨-, r, -, -, rfl⟩ := step_cases hstep
  · exact inv_hostAdvance (inv_resetCore s)
  · exact inv_hostAdvance (inv_of_exec_decoded hd h hu)
  · exact inv_hostAdvance (inv_raiseFault h nofun)

/-! ### Which step there is (R620, R800) -/

/-- With `rst` asserted the step is reset (R800). -/
theorem step_of_rst {s : State} (hr : s.ports.rst = true) : step s = .next (hostAdvance (resetCore s)) := by
  simp [step, hr]

/-- With `rst` deasserted a word that decodes runs its command (R620). -/
theorem step_of_decoded {s : State} {i : Instr} (hr : s.ports.rst = false) (hd : decode s.ports.cmdIn = .ok i) :
    step s = thenHost (exec i s) := by
  simp [step, hr, runCommand, fetch, hd]

/-- With `rst` deasserted a reserved word is answered by its fault (R631). -/
theorem step_of_reserved {s : State} {r : ReservedWord} (hr : s.ports.rst = false)
    (hd : decode s.ports.cmdIn = .error r) : step s = thenHost (execReserved s) := by
  simp [step, hr, runCommand, fetch, hd]

/-- NEXT in UNINIT raises NOT_INITIALIZED (R630). -/
theorem execNext_of_uninit {s : State} (hp : s.phase = .uninit) :
    execNext s = .next (raiseFault s .notInitialized) := by
  simp [execNext, command, hp]

/-- NEXT in READY is one generation, or the stop of its reads (R630). -/
theorem execNext_of_ready {s : State} (hp : s.phase = .ready) :
    execNext s = finish ((readCipher s).map fun c =>
      { writeGenerated s (genBlock s.cfg c).2 with ksOut := regWrite (genBlock s.cfg c).1, ksValid := true }) := by
  simp [execNext, command, hp]

/-- NEXT in READY runs one generation where all seven registers hold values (R630). -/
theorem execNext_of_ready_written {s : State} (hp : s.phase = .ready) (hw : CipherWritten s) :
    execNext s = .next { writeGenerated s (genBlock s.cfg (cipherOf s)).2 with
      ksOut := regWrite (genBlock s.cfg (cipherOf s)).1, ksValid := true } := by
  rw [execNext_of_ready hp, readCipher_of_written hw]
  rfl

/-- Under the invariant each command has a next state outside FAULTED: NEXT reads its registers in READY only, where they hold
values (R211). -/
theorem exec_decoded_has_next {w : U8} {i : Instr} {s : State} (hd : decode w = .ok i) (h : Inv s)
    (hrun : s.phase ≠ .faulted) : ∃ t, exec i s = .next t := by
  obtain rfl | ⟨alt, rfl⟩ | rfl := decode_ok_cases hd
  case inl => exact ⟨_, execNop_eq_next.mpr ⟨hrun, rfl⟩⟩
  case inr.inl => exact ⟨_, execInit_eq_next.mpr ⟨hrun, rfl⟩⟩
  case inr.inr =>
    cases hp : s.phase with
    | uninit => exact ⟨_, execNext_of_uninit hp⟩
    | ready => exact ⟨_, execNext_of_ready_written hp (h.ready_written hp)⟩
    | faulted => exact absurd hp hrun

/-- Under the invariant a step outside FAULTED has a next state. -/
theorem step_has_next_of_running {s : State} (h : Inv s) (hrun : s.phase ≠ .faulted) (hr : s.ports.rst = false) :
    ∃ t, step s = .next t := by
  cases hd : decode s.ports.cmdIn with
  | ok i =>
    obtain ⟨u, hu⟩ := exec_decoded_has_next hd h hrun
    exact ⟨_, (step_of_decoded hr hd).trans (thenHost_eq_next.mpr ⟨u, hu, rfl⟩)⟩
  | error r =>
    have hx := execReserved_eq_next.mpr ⟨hrun, rfl⟩
    exact ⟨_, (step_of_reserved hr hd).trans (thenHost_eq_next.mpr ⟨_, hx, rfl⟩)⟩

/-- Settles O5: a reset has a next state in every phase, a command has one outside FAULTED, and in FAULTED it has no step. -/
theorem stepNeverReadsNoValue : Obligations.StepNeverReadsNoValue := by
  intro s h
  cases hr : s.ports.rst with
  | true => exact .inl ⟨_, step_of_rst hr⟩
  | false =>
    by_cases hp : s.phase = .faulted
    · exact .inr ⟨step_of_faulted hp hr, hp, rfl⟩
    · exact .inl (step_has_next_of_running h hp hr)

/-! ### The round keys (R204, R205) -/

/-- A command other than INIT keeps K1 and K2: NOP and a fault write no register, and a generation writes five others (R603). -/
theorem roundKeys_of_exec_decoded {w : U8} {i : Instr} {s t : State} (hd : decode w = .ok i)
    (hinit : ∀ alt, i ≠ .init alt) (h : exec i s = .next t) : t.k1 = s.k1 ∧ t.k2 = s.k2 := by
  obtain rfl | ⟨alt, rfl⟩ | rfl := decode_ok_cases hd
  case inl =>
    obtain ⟨-, rfl⟩ := execNop_eq_next.mp h
    exact ⟨rfl, rfl⟩
  case inr.inl => exact absurd rfl (hinit alt)
  case inr.inr =>
    obtain ⟨-, rfl⟩ | ⟨-, -, rfl⟩ := execNext_cases h
    · exact ⟨raiseFault_k1 _ _, raiseFault_k2 _ _⟩
    · simp only [writeGenerated_k1, writeGenerated_k2, and_self]

/-- Settles O52: without reset and without INIT, what is left is a NOP, a NEXT or a reserved word, and each keeps the round keys. -/
theorem roundKeysFixed : Obligations.RoundKeysFixed := by
  intro s t h hr hword
  obtain ⟨hrst, -⟩ | ⟨-, i, u, hd, hu, rfl⟩ | ⟨-, r, -, -, rfl⟩ := step_cases h
  · simp [hr] at hrst
  · rw [hostAdvance_k1, hostAdvance_k2]
    exact roundKeys_of_exec_decoded hd (fun alt hi => hword alt (hi ▸ hd)) hu
  · rw [hostAdvance_k1, hostAdvance_k2]
    exact ⟨raiseFault_k1 _ _, raiseFault_k2 _ _⟩

/-! ### The model's own result lines (log entry 4) -/

/-- An outcome with the result lines of its next state replaced. -/
def withUnitOut (u : UnitOut) (r : Result) : Result :=
  match r with
  | .next t => .next (putUnit t u)
  | .fault f => .fault f
  | .refused x => .refused x

/-- The instructions the host can issue are the three commands (R407). -/
theorem wellFormed_cases {i : Instr} (h : WellFormed i) : i = .nop ∨ (∃ alt, i = .init alt) ∨ i = .next := by
  cases i with
  | nop => exact .inl rfl
  | init alt => exact .inr (.inl ⟨alt, rfl⟩)
  | next => exact .inr (.inr rfl)
  | _ => cases h

/-- The gate of a command looks at the phase, not at the result lines. -/
theorem command_putUnit {s : State} {u : UnitOut} {body body' : Result} (hbody : body' = withUnitOut u body) :
    command (putUnit s u) body' = withUnitOut u (command s body) := by
  subst hbody
  by_cases hp : s.phase = .faulted
  · rw [command_of_faulted hp, command_of_faulted (s := putUnit s u) hp]
    rfl
  · rw [command_of_running hp, command_of_running (s := putUnit s u) hp]

/-- A command reads no result line: with others on them it does the same, and leaves those. -/
theorem exec_putUnit {i : Instr} (hi : WellFormed i) (s : State) (u : UnitOut) :
    exec i (putUnit s u) = withUnitOut u (exec i s) := by
  obtain rfl | ⟨alt, rfl⟩ | rfl := wellFormed_cases hi
  case inl => exact command_putUnit rfl
  case inr.inl => exact command_putUnit rfl
  case inr.inr =>
    have hread : readCipher (putUnit s u) = readCipher s := rfl
    refine command_putUnit ?_
    rw [putUnit_phase, hread]
    by_cases hp : s.phase = .uninit
    · rw [if_pos hp, if_pos hp]
      rfl
    · rw [if_neg hp, if_neg hp]
      cases readCipher s <;> rfl

/-- A command writes no result line. -/
theorem unitOut_of_exec {i : Instr} (hi : WellFormed i) {s t : State} (h : exec i s = .next t) : t.unitOut = s.unitOut := by
  obtain rfl | ⟨alt, rfl⟩ | rfl := wellFormed_cases hi
  case inl =>
    obtain ⟨-, rfl⟩ := execNop_eq_next.mp h
    rfl
  case inr.inl =>
    obtain ⟨-, rfl⟩ := execInit_eq_next.mp h
    simp only [writeCipher_unitOut]
  case inr.inr =>
    obtain ⟨-, rfl⟩ | ⟨-, -, rfl⟩ := execNext_cases h
    · exact raiseFault_unitOut _ _
    · simp only [writeGenerated_unitOut]

/-- Settles O54: a command commutes with replacing the result lines, and keeps those it finds. -/
theorem commandsIgnoreResultLines : Obligations.CommandsIgnoreResultLines := by
  intro i s u hi
  refine ⟨fun t ht => ⟨?_, unitOut_of_exec hi ht⟩, fun f hf => ?_⟩
  · rw [exec_putUnit hi, ht]
    rfl
  · rw [exec_putUnit hi, hf]
    rfl

/-! ### The keystream port (R208) -/

/-- While ks_valid is 0 the observation is a fault (R208). -/
theorem readKeystream_of_invalid {s : State} (h : s.ksValid = false) : readKeystream s = .error .ksNotValid := by
  simp [readKeystream, h]

/-- While ks_valid is 1 the port reads the block that ks_out holds (R208). -/
theorem readKeystream_of_valid {s : State} (h : s.ksValid = true) (hw : s.ksOut.written = true) :
    readKeystream s = .ok s.ksOut.val := by
  simp [readKeystream, h, hw]

/-- A bit of a serialized block is the bit of its lane (R306). -/
theorem serialize_getLsbD (lane : Quad) (i : Fin 4) {k : Nat} (hk : k < 32) :
    (serialize lane).getLsbD (32 * i.val + k) = (lane.get i).getLsbD k := by
  fin_cases i <;> simp [serialize, Quad.get, hk] <;> grind

/-- Byte `4i+j` of a serialized block is byte `j` of lane `i` (R306, R602). -/
theorem byteAt_serialize (lane : Quad) (i j : Fin 4) :
    byteAt (serialize lane) (4 * i.val + j.val) = byteAt (lane.get i) j.val := by
  apply BitVec.eq_of_getLsbD_eq
  intro k hk
  have hbit : 8 * (4 * i.val + j.val) + k = 32 * i.val + (8 * j.val + k) := by omega
  rw [byteAt_getLsbD, byteAt_getLsbD, hbit, serialize_getLsbD lane i (by omega)]

/-- Settles O56: NEXT leaves the serialized lanes on the port and ks_valid 1; INIT and reset leave ks_valid 0. -/
theorem keystreamPort : Obligations.KeystreamPort := by
  refine ⟨fun s => readKeystream_of_invalid, fun s t hp hw h => ?_, fun alt s t h => ?_, fun s t hr h => ?_⟩
  case refine_1 =>
    obtain rfl := Host.Outcome.next.inj ((execNext_of_ready_written hp hw).symm.trans h)
    refine ⟨_, readKeystream_of_valid rfl rfl, rfl, rfl, fun i j => ?_⟩
    exact (byteAt_serialize _ i j).trans (by rw [Quad.get_ofFn]; rfl)
  case refine_2 =>
    obtain ⟨-, rfl⟩ := execInit_eq_next.mp h
    exact ⟨rfl, rfl, readKeystream_of_invalid rfl⟩
  case refine_3 =>
    obtain rfl := Host.Outcome.next.inj ((step_of_rst hr).symm.trans h)
    have hv : (hostAdvance (resetCore s)).ksValid = false := by rw [hostAdvance_ksValid]; rfl
    exact ⟨hv, by rw [hostAdvance_ksOut]; rfl, readKeystream_of_invalid hv⟩

/-! ### Reset and the status word (R209, R218) -/

/-- Settles O1: the table of R218, the reads stopping because reset leaves every register with no value. -/
theorem resetState : Obligations.ResetState :=
  ⟨rfl, rfl, rfl, regRead_of_blank rfl, regRead_of_blank rfl, regRead_of_blank rfl, regRead_of_blank rfl,
    regRead_of_blank rfl, regRead_of_blank rfl, regRead_of_blank rfl, regRead_of_blank rfl⟩

/-- The four fields of the status word (R209). -/
theorem statusWord_fields (s : State) :
    (statusWord s).extractLsb' 0 2 = phaseBits s.phase ∧ (statusWord s).getLsbD 2 = s.ksValid ∧
    (statusWord s).extractLsb' 3 2 = faultBits s.faultCode ∧ (statusWord s).extractLsb' 5 3 = 0 := by
  unfold statusWord
  generalize phaseBits s.phase = p
  generalize s.ksValid = v
  generalize faultBits s.faultCode = f
  revert p v f
  decide

/-- Settles O55: the fields of the status word are the codes of R206 and R207. -/
theorem statusLayout : Obligations.StatusLayout := by
  intro s
  obtain ⟨hphase, hvalid, hcode, hzero⟩ := statusWord_fields s
  refine ⟨hphase.trans ?_, hvalid, hcode.trans ?_, hzero⟩
  · cases s.phase <;> rfl
  · cases s.faultCode <;> rfl

/-! ### Reads of registers that hold no value (R211) -/

/-- The first blank register of a list is its head, or the first of the rest after a head that holds a value. -/
theorem firstBlank_cons_eq_some {s : State} {m n : RegName} {ms : List RegName} :
    firstBlank s (m :: ms) = some n ↔
      (holdsValue s m = false ∧ n = m) ∨ (holdsValue s m = true ∧ firstBlank s ms = some n) := by
  cases hm : holdsValue s m <;> simp [firstBlank, hm, eq_comm]

/-- An empty list has no blank register. -/
theorem firstBlank_nil_ne_some {s : State} {n : RegName} : firstBlank s [] ≠ some n := nofun

/-- A read followed by more reads stops on the first blank register of the list, if the reads after it do. -/
theorem regRead_bind_of_firstBlank {α β : Type} {s : State} {m n : RegName} {ms : List RegName} {r : Reg α}
    {k : α → Except Fault β} (hm : holdsValue s m = r.written) (h : firstBlank s (m :: ms) = some n)
    (hk : ∀ v, firstBlank s ms = some n → k v = .error (.noValue n)) : (regRead m r >>= k) = .error (.noValue n) := by
  obtain ⟨hb, rfl⟩ | ⟨hw, hrest⟩ := firstBlank_cons_eq_some.mp h
  · rw [regRead_of_blank (hm ▸ hb)]
    rfl
  · rw [regRead_of_written (hm ▸ hw)]
    exact hk _ hrest

/-- A read alone stops where its register is the blank one. -/
theorem regRead_of_firstBlank {α : Type} {s : State} {m n : RegName} {r : Reg α} (hm : holdsValue s m = r.written)
    (h : firstBlank s [m] = some n) : regRead m r = .error (.noValue n) := by
  obtain ⟨hb, rfl⟩ | ⟨-, hrest⟩ := firstBlank_cons_eq_some.mp h
  · exact regRead_of_blank (hm ▸ hb)
  · exact absurd hrest firstBlank_nil_ne_some

/-- The read of the pair is a read of A and then one of B. -/
theorem readPair_eq_bind (s : State) :
    readPair s = (do let a ← regRead .a s.a; let b ← regRead .b s.b; return ⟨a, b⟩) := by
  unfold readPair
  cases regRead .a s.a <;> cases regRead .b s.b <;> rfl

theorem readPair_of_firstBlank {s : State} {n : RegName} (h : firstBlank s [.a, .b] = some n) :
    readPair s = .error (.noValue n) := by
  rw [readPair_eq_bind]
  exact regRead_bind_of_firstBlank rfl h fun _ h => regRead_bind_of_firstBlank rfl h fun _ h =>
    absurd h firstBlank_nil_ne_some

theorem readCombiner_of_firstBlank {s : State} {n : RegName} (h : firstBlank s [.b, .r1, .r2] = some n) :
    readCombiner s = .error (.noValue n) :=
  regRead_bind_of_firstBlank rfl h fun _ h => regRead_bind_of_firstBlank rfl h fun _ h =>
    regRead_bind_of_firstBlank rfl h fun _ h => absurd h firstBlank_nil_ne_some

theorem readCipher_of_firstBlank {s : State} {n : RegName}
    (h : firstBlank s [.a, .b, .r1, .r2, .r3, .k1, .k2] = some n) : readCipher s = .error (.noValue n) :=
  regRead_bind_of_firstBlank rfl h fun _ h => regRead_bind_of_firstBlank rfl h fun _ h =>
    regRead_bind_of_firstBlank rfl h fun _ h => regRead_bind_of_firstBlank rfl h fun _ h =>
    regRead_bind_of_firstBlank rfl h fun _ h => regRead_bind_of_firstBlank rfl h fun _ h =>
    regRead_bind_of_firstBlank rfl h fun _ h => absurd h firstBlank_nil_ne_some

/-- FSM_ADVANCE stops on the first blank register of its six (R581). -/
theorem execFsmAdvance_of_firstBlank {s : State} {n : RegName}
    (h : firstBlank s [.a, .r1, .r2, .r3, .k1, .k2] = some n) : execFsmAdvance s = .fault (.noValue n) := by
  simp only [execFsmAdvance, readFsm, bind_assoc, pure_bind]
  refine (congrArg finish ?_ : _ = finish (.error (.noValue n)))
  exact regRead_bind_of_firstBlank rfl h fun _ h => regRead_bind_of_firstBlank rfl h fun _ h =>
    regRead_bind_of_firstBlank rfl h fun _ h => regRead_bind_of_firstBlank rfl h fun _ h =>
    regRead_bind_of_firstBlank rfl h fun _ h => regRead_bind_of_firstBlank rfl h fun _ h =>
    absurd h firstBlank_nil_ne_some

/-- A meaning whose reads stop is that stop. -/
theorem finish_map_of_error {α : Type} {r : Except Fault α} {f : Fault} {k : α → State} (h : r = .error f) :
    finish (r.map k) = .fault f := by
  rw [h]
  rfl

/-- Settles O57: every operation reads the registers of its list in the list's order, and ends in the stop of its reads. -/
theorem readsOfNoValueFault : Obligations.ReadsOfNoValueFault := by
  intro s n
  refine ⟨fun h => ?pair, execFsmAdvance_of_firstBlank, fun h i => ?combiner, fun h => ⟨?genBlock, fun hp => ?next⟩,
    fun h z => ?fold, fun h key half => ?inject⟩
  case pair =>
    have hread := readPair_of_firstBlank h
    exact ⟨finish_map_of_error hread, finish_map_of_error hread⟩
  case combiner => exact finish_map_of_error (readCombiner_of_firstBlank h)
  case genBlock => exact finish_map_of_error (readCipher_of_firstBlank h)
  case next => exact (execNext_of_ready hp).trans (finish_map_of_error (readCipher_of_firstBlank h))
  case fold => exact finish_map_of_error (regRead_of_firstBlank rfl h)
  case inject => exact finish_map_of_error (regRead_of_firstBlank rfl h)

end Sys2Proof.Machine

namespace Sys2Proof.Machine

/-! ### The sixteen bytes of a 128-bit value (R303, R304) -/

/-- Byte `4i+j` of four words is byte `j` of word `i` (R304). -/
theorem quadByte_ofNat (x : Quad) (i j : Fin 4) :
    quadByte x (Fin.ofNat 16 (4 * i.val + j.val)) = byteAt (x.get i) j.val := by
  have hval : (Fin.ofNat 16 (4 * i.val + j.val)).val = 4 * i.val + j.val := Nat.mod_eq_of_lt (by omega)
  have hword : quadWordOf (Fin.ofNat 16 (4 * i.val + j.val)) = i := Fin.ext (by simp only [quadWordOf, hval]; omega)
  have hbyte : (4 * i.val + j.val) % 4 = j.val := by omega
  rw [quadByte, hword, hval, hbyte]

/-- Every byte index is `4i+j`, with `i` its word and `j` its place in that word (R304). -/
theorem exists_eq_ofNat_word_byte (n : Fin 16) : ∃ i j : Fin 4, n = Fin.ofNat 16 (4 * i.val + j.val) :=
  ⟨quadWordOf n, ⟨n.val % 4, by omega⟩, Fin.ext (by simp only [quadWordOf, Fin.val_ofNat]; omega)⟩

/-- Word `i` built from sixteen bytes is the little-endian word of bytes `4i` to `4i+3` (R303). -/
theorem quadOfBytes_get (t : Fin 16 → U8) (i : Fin 4) :
    (quadOfBytes t).get i = le32 (t (Fin.ofNat 16 (4 * i.val + (0 : Fin 4).val)))
      (t (Fin.ofNat 16 (4 * i.val + (1 : Fin 4).val))) (t (Fin.ofNat 16 (4 * i.val + (2 : Fin 4).val)))
      (t (Fin.ofNat 16 (4 * i.val + (3 : Fin 4).val))) := by
  fin_cases i <;> rfl

/-- Byte `j` of a little-endian word is the `j`-th byte it is built from (R303). -/
theorem byteAt_le32 (f : Fin 4 → U8) (j : Fin 4) : byteAt (le32 (f 0) (f 1) (f 2) (f 3)) j.val = f j := by
  fin_cases j
  · exact byteAt_le32_0 ..
  · exact byteAt_le32_1 ..
  · exact byteAt_le32_2 ..
  · exact byteAt_le32_3 ..

/-- Four words are rebuilt from their own bytes. -/
theorem quadOfBytes_quadByte (x : Quad) : quadOfBytes (quadByte x) = x := by
  refine Quad.ext_get fun i => ?_
  rw [quadOfBytes_get, quadByte_ofNat, quadByte_ofNat, quadByte_ofNat, quadByte_ofNat]
  exact le32_byteAt _

/-- Sixteen bytes are the bytes of the words built from them. -/
theorem quadByte_quadOfBytes (t : Fin 16 → U8) (n : Fin 16) : quadByte (quadOfBytes t) n = t n := by
  obtain ⟨i, j, rfl⟩ := exists_eq_ofNat_word_byte n
  rw [quadByte_ofNat, quadOfBytes_get]
  exact byteAt_le32 (fun j => t (Fin.ofNat 16 (4 * i.val + j.val))) j

/-- Settles O25: `byteAt` is by definition the eight bits of its byte, and a word and its four bytes determine each other. -/
theorem quadBytesRoundTrip : Obligations.QuadBytesRoundTrip :=
  ⟨quadByte_ofNat, quadOfBytes_quadByte, quadByte_quadOfBytes⟩

/-! ### The 16-bit words of a serialized block (R302, R306, R307) -/

/-- The low eight bits of `u16(hi, lo)` are those of `lo`, the high eight those of `hi` (R110). -/
theorem u16OfBytes_getLsbD (hi lo : U8) {b : Nat} (hb : b < 16) :
    (u16OfBytes hi lo).getLsbD b = if b < 8 then lo.getLsbD b else hi.getLsbD (b - 8) := by
  simp only [u16OfBytes, BitVec.getLsbD_or, BitVec.getLsbD_shiftLeft, BitVec.getLsbD_setWidth]
  split
  case isTrue hlow => simp [hlow, hb]
  case isFalse hlow =>
    have hlo : lo.getLsbD b = false := BitVec.getLsbD_of_ge _ _ (by omega)
    simp [hlow, hlo, hb, show b - 8 < 16 by omega]

/-- The 16-bit word whose low byte is byte `k` is the sixteen bits from bit `8k` on (R302). -/
theorem le16At_getLsbD {n : Nat} (v : BitVec n) (k : Nat) {b : Nat} (hb : b < 16) :
    (le16At v k).getLsbD b = v.getLsbD (8 * k + b) := by
  rw [le16At, u16OfBytes_getLsbD _ _ hb]
  split
  case isTrue hlow => rw [byteAt_getLsbD, decide_eq_true hlow, Bool.true_and]
  case isFalse hlow =>
    have hhigh : b - 8 < 8 := by omega
    have hbit : 8 * (k + 1) + (b - 8) = 8 * k + b := by omega
    rw [byteAt_getLsbD, decide_eq_true hhigh, Bool.true_and, hbit]

/-- Word `2i+half` of a serialized block is that half of lane `i`, half 0 the low one (R307). -/
theorem le16At_serialize (lane : Quad) (i : Fin 4) {half : Nat} (hhalf : half < 2) :
    le16At (serialize lane) (2 * (2 * i.val + half)) = (lane.get i).extractLsb' (16 * half) 16 := by
  apply BitVec.eq_of_getLsbD_eq
  intro b hb
  have hbit : 8 * (2 * (2 * i.val + half)) + b = 32 * i.val + (16 * half + b) := by omega
  rw [le16At_getLsbD _ _ hb, hbit, serialize_getLsbD lane i (by omega), BitVec.getLsbD_extractLsb']
  simp [hb]

/-- Settles O27: the low half of a lane is its half 0, the high half its half 1. -/
theorem foldWordsOfLanes : Obligations.FoldWordsOfLanes := fun lane i =>
  ⟨le16At_serialize lane i (half := 0) (by decide), le16At_serialize lane i (half := 1) (by decide)⟩

end Sys2Proof.Machine

namespace Sys2Proof.Machine

/-! ### Command words and instructions (R401, R402, R403, R407) -/

/-- The three fields of R401 are all eight bits of a command word. -/
theorem word_ext_fields {v w : U8} (hrsv : fieldRsv v = fieldRsv w) (halt : fieldAlt v = fieldAlt w)
    (hop : fieldOp v = fieldOp w) : v = w := by
  apply BitVec.eq_of_getLsbD_eq
  intro b hb
  obtain hlow | rfl | hhigh : b < 2 ∨ b = 2 ∨ 3 ≤ b := by omega
  · simpa [fieldOp, BitVec.getLsbD_extractLsb', hlow] using congrArg (BitVec.getLsbD · b) hop
  · exact halt
  · have hbit := congrArg (BitVec.getLsbD · (b - 3)) hrsv
    simpa [fieldRsv, BitVec.getLsbD_extractLsb', show b - 3 < 5 by omega, Nat.add_sub_of_le hhigh] using hbit

/-- The inversion of the decoder: the fields of a word that decodes to an instruction are those of that instruction's row. -/
theorem decode_ok_fields {w : U8} {i : Instr} (h : decode w = .ok i) :
    fieldRsv w = 0 ∧ ((fieldOp w = 0b00 ∧ fieldAlt w = false ∧ i = .nop) ∨
      (fieldOp w = 0b01 ∧ i = .init (fieldAlt w)) ∨ (fieldOp w = 0b10 ∧ fieldAlt w = false ∧ i = .next)) := by
  unfold decode at h
  split_ifs at h with hrsv hop11 halt hop00 hop01 <;> cases h <;> refine ⟨not_not.mp hrsv, ?_⟩
  · exact .inl ⟨hop00, by simpa [hop00] using halt, rfl⟩
  · exact .inr (.inl ⟨hop01, rfl⟩)
  · have hop10 : fieldOp w = 0b10 := by bv_omega
    exact .inr (.inr ⟨hop10, by simpa [hop10] using halt, rfl⟩)

/-- A word with the INIT opcode and no reserved bit is an INIT, with the `alt` bit as its operand (R402, R405). -/
theorem decode_of_initOp {w : U8} (hrsv : fieldRsv w = 0) (hop : fieldOp w = 0b01) :
    decode w = .ok (.init (fieldAlt w)) := by
  simp [decode, hrsv, hop]

/-- An instruction has a command word exactly if the host can issue it (R403, R407). -/
theorem encode_isSome (i : Instr) : (encode i).isSome = i.isCommand := by
  cases i with
  | init alt => exact Laws.HasWord.init alt
  | _ => rfl

/-- An instruction's word decodes to it. -/
theorem decode_of_encode {i : Instr} {w : U8} (h : encode i = some w) : decode w = .ok i := by
  have hi : WellFormed i := by rw [WellFormed, ← encode_isSome, h, Option.isSome_some]
  obtain rfl | ⟨_ | _, rfl⟩ | rfl := wellFormed_cases hi <;> cases h <;> rfl

/-- A word that decodes to an instruction is the word of that instruction, since it has the fields of that word. -/
theorem encode_of_decode {w : U8} {i : Instr} (h : decode w = .ok i) : encode i = some w := by
  obtain ⟨hrsv, ⟨hop, halt, rfl⟩ | ⟨hop, rfl⟩ | ⟨hop, halt, rfl⟩⟩ := decode_ok_fields h
  case inl => exact congrArg some (word_ext_fields hrsv.symm halt.symm hop.symm)
  case inr.inl =>
    cases halt : fieldAlt w <;> exact congrArg some (word_ext_fields hrsv.symm halt.symm hop.symm)
  case inr.inr => exact congrArg some (word_ext_fields hrsv.symm halt.symm hop.symm)

/-- Settles O9: decoder and encoder are each other's inverse, and an instruction has a word exactly if it is a command. -/
theorem decodeEncodeAgree : Obligations.DecodeEncodeAgree := by
  refine ⟨fun i hi => ?word, fun w i h => ⟨?command, encode_of_decode h⟩, fun i hi => ?internal⟩
  case word =>
    obtain ⟨w, hw⟩ := Option.isSome_iff_exists.mp ((encode_isSome i).trans hi)
    exact ⟨w, hw, decode_of_encode hw⟩
  case command => rw [WellFormed, ← encode_isSome, encode_of_decode h, Option.isSome_some]
  case internal =>
    have hnone : encode i = none := by
      rwa [WellFormed, ← encode_isSome, Option.not_isSome_iff_eq_none] at hi
    exact ⟨hnone, fun w h => Option.some_ne_none w ((encode_of_decode h).symm.trans hnone)⟩

/-- The mask 0xFB leaves out the `alt` bit only: a word that matches 0x01 under it has the fields `rsv` and `op` of 0x01. -/
theorem fields_of_initMask {w : U8} (h : w &&& 0xFB = 0x01) : fieldRsv w = 0 ∧ fieldOp w = 0b01 := by
  have hrsv : fieldRsv (w &&& 0xFB) = fieldRsv w := by
    rw [fieldRsv, BitVec.extractLsb'_and]
    exact BitVec.and_allOnes
  have hop : fieldOp (w &&& 0xFB) = fieldOp w := by
    rw [fieldOp, BitVec.extractLsb'_and]
    exact BitVec.and_allOnes
  exact ⟨by rw [← hrsv, h]; rfl, by rw [← hop, h]; rfl⟩

/-- Settles O10: a word that is none of the four decodes to no command, since each command's word is one of the four. -/
theorem opcodeMap : Obligations.OpcodeMap := by
  refine ⟨rfl, rfl, rfl, rfl, fun w h00 h01 h05 h02 => ?reserved, fun w h => ?initRow⟩
  case reserved =>
    cases hd : decode w with
    | error r => exact ⟨r, rfl⟩
    | ok i =>
      have hw := encode_of_decode hd
      obtain rfl | ⟨_ | _, rfl⟩ | rfl := decode_ok_cases hd
      · exact absurd (Option.some.inj hw).symm h00
      · exact absurd (Option.some.inj hw).symm h01
      · exact absurd (Option.some.inj hw).symm h05
      · exact absurd (Option.some.inj hw).symm h02
  case initRow =>
    obtain ⟨hrsv, hop⟩ := fields_of_initMask h
    exact decode_of_initOp hrsv hop

/-- A row of the opcode table reads as the instruction whose command word it is. -/
theorem decodeTableWord_of_encode {nbits w : Nat} {i : Instr} (h : encode i = some (tableWord nbits w)) :
    decodeTableWord nbits w = some i := by
  rw [decodeTableWord, decode_of_encode h]

/-- Settles O11: the four rows are the words of their instructions, and each rejection is the first clause of R402 that its word
meets. -/
theorem tableWords : Obligations.TableWords :=
  ⟨decodeTableWord_of_encode rfl, decodeTableWord_of_encode rfl, decodeTableWord_of_encode rfl,
    decodeTableWord_of_encode rfl, rfl, rfl, rfl, rfl, rfl⟩

/-! ### A step runs what the word decodes to, and nothing is refused (R402, R404, R620, R701) -/

/-- Settles O6: the step is the decoded instruction with the host going on after a next state. -/
theorem stepRunsDecoded : Obligations.StepRunsDecoded := by
  intro s i hr hd
  rw [step_of_decoded hr hd]
  refine ⟨fun t ht => ?next, fun f hf => ?stop⟩
  case next => rw [ht, thenHost]
  case stop => rw [hf, thenHost]

/-- A meaning that reads registers ends in a next state or a fault. -/
theorem finish_ne_refused (r : Except Fault State) (x : Refusal) : finish r ≠ .refused x := by
  cases r <;> nofun

/-- The gate of a command refuses nothing its body does not. -/
theorem command_ne_refused {s : State} {body : Result} {x : Refusal} (h : body ≠ .refused x) :
    command s body ≠ .refused x := by
  by_cases hp : s.phase = .faulted
  · rw [command_of_faulted hp]
    nofun
  · rwa [command_of_running hp]

/-- The host going on refuses nothing. -/
theorem thenHost_ne_refused {r : Result} {x : Refusal} (h : r ≠ .refused x) : thenHost r ≠ .refused x := by
  cases r with
  | refused y => exact h
  | _ => nofun

/-- Every instruction has a meaning: a next state outright, one that ends its reads, or a command behind its gate. -/
theorem exec_ne_refused (i : Instr) (s : State) (x : Refusal) : exec i s ≠ .refused x := by
  cases i with
  | nop | init => exact command_ne_refused nofun
  | next =>
    refine command_ne_refused ?_
    by_cases hp : s.phase = .uninit
    · rw [if_pos hp]
      nofun
    · rw [if_neg hp]
      exact finish_ne_refused _ x
  | lfsrStep | lfsrAdvance | fsmAdvance | ksCombine | genBlock | warmupFold | keyInject => exact finish_ne_refused _ x
  | _ => nofun

/-- Settles O7: no instruction is refused, and a step is a reset, an instruction or the fault of a reserved word. -/
theorem nothingIsRefused : Obligations.NothingIsRefused := by
  intro s x
  refine ⟨fun i => exec_ne_refused i s x, ?_⟩
  cases hr : s.ports.rst with
  | true =>
    rw [step_of_rst hr]
    nofun
  | false =>
    cases hd : decode s.ports.cmdIn with
    | ok i =>
      rw [step_of_decoded hr hd]
      exact thenHost_ne_refused (exec_ne_refused i s x)
    | error r =>
      rw [step_of_reserved hr hd]
      exact thenHost_ne_refused (command_ne_refused nofun)

/-! ### The host's pseudo-instructions (R409) -/

/-- Any number of NEXT transactions have `rst` deasserted and the word 0x02. -/
theorem next_of_mem_replicate {n : Nat} {p : Ports} (h : p ∈ List.replicate n (issueWord 0x02)) :
    p.rst = false ∧ p.cmdIn = 0x02 := by
  rw [List.eq_of_mem_replicate h]
  exact ⟨rfl, rfl⟩

/-- A block is sixteen bytes. -/
@[simp] theorem length_blockBytes (z : U128) : (blockBytes z).length = 16 := by
  simp [blockBytes]

/-- Blocks laid one after the other are sixteen bytes each. -/
theorem length_flatMap_blockBytes (blocks : List U128) : (blocks.flatMap blockBytes).length = 16 * blocks.length := by
  simp [List.length_flatMap, Nat.mul_comm]

/-- Of blocks laid one after the other, byte `k` is byte `k mod 16` of block `k / 16`. -/
theorem getElem?_flatMap_blockBytes (blocks : List U128) (k : Nat) :
    (blocks.flatMap blockBytes)[k]? = blocks[k / 16]?.map (byteAt · (k % 16)) := by
  induction blocks generalizing k with
  | nil => simp
  | cons z zs ih =>
    rw [List.flatMap_cons]
    by_cases hk : k < 16
    · rw [List.getElem?_append_left (by simpa using hk), Nat.div_eq_of_lt hk, Nat.mod_eq_of_lt hk]
      simp [blockBytes, hk]
    · obtain ⟨j, rfl⟩ := Nat.exists_eq_add_of_le (Nat.le_of_not_lt hk)
      rw [List.getElem?_append_right (by simp), length_blockBytes, Nat.add_sub_cancel_left, ih,
        Nat.add_div_left _ (by decide), Nat.add_mod_left, List.getElem?_cons_succ]

/-- KEYSTREAM keeps as many bytes as it asks for, if its blocks hold them. -/
theorem length_keptKeystream {n : Nat} {blocks : List U128} (h : n ≤ 16 * blocks.length) :
    (keptKeystream n blocks).length = n := by
  rw [keptKeystream, List.length_take, length_flatMap_blockBytes, Nat.min_eq_left h]

/-- Byte `k` that KEYSTREAM keeps is byte `k mod 16` of block `k / 16`. -/
theorem getElem?_keptKeystream {n k : Nat} {blocks : List U128} (h : n ≤ 16 * blocks.length) (hk : k < n) :
    ∃ z, blocks[k / 16]? = some z ∧ (keptKeystream n blocks)[k]? = some (byteAt z (k % 16)) := by
  have hblock : k / 16 < blocks.length := by omega
  refine ⟨_, List.getElem?_eq_getElem hblock, ?_⟩
  rw [keptKeystream, List.getElem?_take_of_lt hk, getElem?_flatMap_blockBytes, List.getElem?_eq_getElem hblock,
    Option.map_some]

/-- KEYSTREAM n is the least number of blocks that hold n bytes. -/
theorem keystream_transactions_ceil (n : Nat) :
    n ≤ 16 * (transactions (.keystream n)).length ∧ 16 * (transactions (.keystream n)).length < n + 16 := by
  rw [transactions, List.length_replicate]
  omega

/-- Settles O58: KEYSTREAM and SKIP repeat the NEXT transaction, the kept bytes are those of the blocks laid one after the other, and
REKEY has INIT's one transaction. -/
theorem pseudoInstructions : Obligations.PseudoInstructions := by
  refine ⟨fun n => ?keystream, fun n blocks h => ⟨length_keptKeystream h, fun k hk => getElem?_keptKeystream h hk⟩,
    fun n => ⟨List.length_replicate, fun p hp => next_of_mem_replicate hp, fun blocks => rfl⟩,
    ⟨rfl, fun p hp => next_of_mem_replicate (n := 1) hp⟩, fun key nonce => ⟨rfl, rfl⟩⟩
  case keystream =>
    obtain ⟨hle, hlt⟩ := keystream_transactions_ceil n
    exact ⟨hle, hlt, fun p hp => next_of_mem_replicate hp⟩

end Sys2Proof.Machine

namespace Sys2Proof.Machine

/-! ### The laws of the field multipliers (R500, R501, R508) -/

/-- The constants of a multiplier and its inverse, as R502 ties them: `c` has bit 0 set, and `d` is `c` shifted right by one with
bit 15 set. -/
structure InverseConstants (c d : U16) : Prop where
  mul_odd : c.getLsbD 0 = true
  inv_eq : d = (c >>> 1) ||| 0x8000#16

/-- The constants of register A's multipliers are a pair (R502). -/
theorem inverseConstants_a : InverseConstants cAMul cAInv := ⟨rfl, rfl⟩

/-- The constants of register B's multipliers are a pair (R502). -/
theorem inverseConstants_b : InverseConstants cBMul cBInv := ⟨rfl, rfl⟩

/-- Below bit 15 the inverse's constant is the multiplier's one place down. -/
theorem InverseConstants.getLsbD_succ {c d : U16} (h : InverseConstants c d) {i : Nat} (hi : i < 15) :
    c.getLsbD (i + 1) = d.getLsbD i := by
  have htop : (0x8000#16).getLsbD i = false := by
    interval_cases i <;> rfl
  rw [h.inv_eq, BitVec.getLsbD_or, BitVec.getLsbD_ushiftRight, htop, Bool.or_false, Nat.add_comm]

/-- Bit 15 of the inverse's constant is set. -/
theorem InverseConstants.getLsbD_top {c d : U16} (h : InverseConstants c d) : d.getLsbD 15 = true := by
  simp [h.inv_eq]

/-- MULX moves the bit shifted out to bit 0, which is clear after the shift. -/
theorem InverseConstants.mulx_getLsbD_zero {c d : U16} (h : InverseConstants c d) (v : U16) :
    (mulx v c).getLsbD 0 = v.getLsbD 15 := by
  rw [mulx_getLsbD _ _ _ (by decide), h.mul_odd]
  simp

/-- MULXINV moves the bit shifted out to bit 15, which is clear after the shift. -/
theorem InverseConstants.mulxInv_getLsbD_top {c d : U16} (h : InverseConstants c d) (v : U16) :
    (mulxInv v d).getLsbD 15 = v.getLsbD 0 := by
  rw [mulxInv_getLsbD, h.getLsbD_top]
  simp

/-- MULXINV undoes MULX: the bit shifted out comes back to bit 15, and the constant is XORed in twice (R508). -/
theorem InverseConstants.mulxInv_mulx {c d : U16} (h : InverseConstants c d) (v : U16) : mulxInv (mulx v c) d = v := by
  apply BitVec.eq_of_getLsbD_eq
  intro i hi
  rw [mulxInv_getLsbD, h.mulx_getLsbD_zero]
  obtain hlow | rfl : i < 15 ∨ i = 15 := by omega
  · rw [mulx_getLsbD _ _ _ (by omega), h.getLsbD_succ hlow]
    simp
  · simp [h.getLsbD_top]

/-- MULX undoes MULXINV: the bit shifted out comes back to bit 0, and the constant is XORed in twice (R508). -/
theorem InverseConstants.mulx_mulxInv {c d : U16} (h : InverseConstants c d) (v : U16) : mulx (mulxInv v d) c = v := by
  apply BitVec.eq_of_getLsbD_eq
  intro i hi
  rw [mulx_getLsbD _ _ _ hi, h.mulxInv_getLsbD_top]
  cases i with
  | zero => simp [h.mul_odd]
  | succ j =>
    rw [mulxInv_getLsbD, Nat.add_sub_cancel, h.getLsbD_succ (by omega)]
    simp

/-- MULX by such a constant is a bijection on 16-bit words. -/
theorem InverseConstants.bijective_mulx {c d : U16} (h : InverseConstants c d) : Function.Bijective (mulx · c) :=
  Function.bijective_iff_has_inverse.mpr ⟨(mulxInv · d), h.mulxInv_mulx, h.mulx_mulxInv⟩

/-- MULXINV by such a constant is a bijection on 16-bit words. -/
theorem InverseConstants.bijective_mulxInv {c d : U16} (h : InverseConstants c d) : Function.Bijective (mulxInv · d) :=
  Function.bijective_iff_has_inverse.mpr ⟨(mulx · c), h.mulx_mulxInv, h.mulxInv_mulx⟩

/-- MULX is the shift with the constant, or 0, XORed in (R500). -/
theorem mulx_eq_xor (v c : U16) : mulx v c = (v <<< 1) ^^^ (if v.getLsbD 15 then c else 0#16) := by
  rw [mulx]
  split <;> simp

/-- MULXINV is the shift with the constant, or 0, XORed in (R501). -/
theorem mulxInv_eq_xor (v d : U16) : mulxInv v d = (v >>> 1) ^^^ (if v.getLsbD 0 then d else 0#16) := by
  rw [mulxInv]
  split <;> simp

/-- The conditional term is linear in its one input bit. -/
theorem ite_xor_const (p q : Bool) (c : U16) :
    (if p ^^ q then c else 0#16) = (if p then c else 0#16) ^^^ (if q then c else 0#16) := by
  cases p <;> cases q <;> simp

/-- MULX is linear over XOR, whatever its constant (R508). -/
theorem mulx_xor (v w c : U16) : mulx (v ^^^ w) c = mulx v c ^^^ mulx w c := by
  simp only [mulx_eq_xor, BitVec.getLsbD_xor, ite_xor_const, BitVec.shiftLeft_xor_distrib]
  ac_rfl

/-- MULXINV is linear over XOR, whatever its constant (R508). -/
theorem mulxInv_xor (v w d : U16) : mulxInv (v ^^^ w) d = mulxInv v d ^^^ mulxInv w d := by
  simp only [mulxInv_eq_xor, BitVec.getLsbD_xor, ite_xor_const, BitVec.ushiftRight_xor_distrib]
  ac_rfl

/-- Settles O14: R508 holds of every pair of constants tied as R502 ties those of A and of B. -/
theorem fieldMultiplierLaws : Obligations.FieldMultiplierLaws := by
  refine ⟨fun v => ?inverse, ?bijective, fun v w => ?linear, rfl, rfl, rfl, rfl⟩
  case inverse =>
    exact ⟨inverseConstants_a.mulxInv_mulx v, inverseConstants_a.mulx_mulxInv v, inverseConstants_b.mulxInv_mulx v,
      inverseConstants_b.mulx_mulxInv v⟩
  case bijective =>
    exact ⟨inverseConstants_a.bijective_mulx, inverseConstants_a.bijective_mulxInv, inverseConstants_b.bijective_mulx,
      inverseConstants_b.bijective_mulxInv⟩
  case linear => exact ⟨mulx_xor v w _, mulxInv_xor v w _, mulx_xor v w _, mulxInv_xor v w _⟩

/-! ### The branch-free forms of the field multipliers (R509) -/

/-- The mask 0xFFFF keeps the low sixteen bits of a 32-bit word. -/
theorem and_lowHalfMask (x : U32) : x &&& 0xFFFF#32 = (x.setWidth 16).setWidth 32 :=
  (BitVec.and_setWidth_allOnes 16 16 x).trans (BitVec.setWidth_eq_append (by decide)).symm

/-- The low sixteen bits of a 16-bit word shifted left in 32 bits are those of the word shifted in 16. -/
theorem shiftLeft_lowHalf (v : U16) : (v.setWidth 32 <<< 1) &&& 0xFFFF#32 = (v <<< 1).setWidth 32 := by
  rw [and_lowHalfMask, BitVec.setWidth_shiftLeft_of_le (by decide)]
  simp

/-- Zero minus a bit is a mask of all ones or of none, so it selects the constant or 0. -/
theorem and_neg_bit (c : U16) (p : Bool) :
    c.setWidth 32 &&& (0#32 - (BitVec.ofBool p).setWidth 32) &&& 0xFFFF#32 = (if p then c else 0#16).setWidth 32 := by
  cases p with
  | false => simp
  | true =>
    have hones : 0#32 - (BitVec.ofBool true).setWidth 32 = BitVec.allOnes 32 := rfl
    rw [hones, BitVec.and_allOnes, and_lowHalfMask]
    simp

/-- Settles O15: widened to 32 bits, the shift and the conditional constant are the two masked terms. -/
theorem fieldBranchFree : Obligations.FieldBranchFree := by
  intro v c
  constructor
  · rw [mulx_eq_xor, BitVec.setWidth_xor, shiftLeft_lowHalf, and_neg_bit]
  · rw [mulxInv_eq_xor, BitVec.setWidth_xor, BitVec.setWidth_ushiftRight (by decide), and_neg_bit]

/-! ### The values of the field multipliers (R504 to R507) -/

/-- Settles O13: the four are MULX and MULXINV with their constants, and the fixed values are those of the two functions. -/
theorem fieldMultiplierValues : Obligations.FieldMultiplierValues :=
  ⟨fun v => ⟨rfl, rfl, rfl, rfl⟩, by decide, by decide, by decide, by decide⟩

end Sys2Proof.Machine

namespace Sys2Proof.Machine

/-! ### The S-box (R520, R521) -/

/-- The product in GF(2^8) modulo 0x11B, the field of R520: the doublings of `a` selected by the bits of `b`. -/
def gfMul (a b : U8) : U8 := (List.range 8).foldl (fun acc k => if b.getLsbD k then acc ^^^ xtime^[k] a else acc) 0

/-- The affine map of R520. -/
def sboxAffine (b : U8) : U8 :=
  b ^^^ b.rotateLeft 1 ^^^ b.rotateLeft 2 ^^^ b.rotateLeft 3 ^^^ b.rotateLeft 4 ^^^ 0x63

/-- The inverse of the affine map. -/
def sboxAffineInv (y : U8) : U8 := y.rotateLeft 1 ^^^ y.rotateLeft 3 ^^^ y.rotateLeft 6 ^^^ 0x05

/-- The byte whose affine image the entry of `a` is; R520 says that it is the inverse of `a` in the field. -/
def sboxPreAffine (a : U8) : U8 := sboxAffineInv (sbox a)

/-- The affine map undoes its inverse. -/
theorem sboxAffine_sboxAffineInv : ∀ y, sboxAffine (sboxAffineInv y) = y := by decide

/-- Every entry of the table is the affine image of an inverse in the field, 0 standing for the inverse of 0 (R520). -/
theorem gfMul_sboxPreAffine : ∀ a, a = 0 ∧ sboxPreAffine a = 0 ∨ gfMul a (sboxPreAffine a) = 1 := by decide

/-- The inverse of the inverse is the byte itself, read off the table twice. -/
theorem sboxPreAffine_involutive : Function.Involutive sboxPreAffine := by
  unfold Function.Involutive
  decide

/-- SBOX is a bijection: it is the affine map after an involution (R520). -/
theorem sbox_bijective : Function.Bijective sbox :=
  Finite.injective_iff_bijective.mp (sboxPreAffine_involutive.injective.of_comp (f := sboxAffineInv))

/-- Settles O17: the field inverse is the entry with the affine map undone. -/
theorem sboxIsAffineInverse : Obligations.SboxIsAffineInverse := fun a =>
  ⟨sboxPreAffine a, gfMul_sboxPreAffine a, (sboxAffine_sboxAffineInv (sbox a)).symm⟩

/-- The table has sixteen rows. -/
theorem length_sboxRows : sboxRows.length = 16 := rfl

/-- Each row of the table has sixteen entries. -/
theorem length_of_mem_sboxRows : ∀ row ∈ sboxRows, row.length = 16 := by decide

/-- The table has an entry for every byte, and SBOX reads it (R521). -/
theorem sbox_is_entry (x : U8) : ∃ row, sboxRows[x.toNat / 16]? = some row ∧ row[x.toNat % 16]? = some (sbox x) := by
  have hrow : x.toNat / 16 < sboxRows.length := by
    have := x.isLt
    rw [length_sboxRows]
    omega
  have hcol : x.toNat % 16 < sboxRows[x.toNat / 16].length := by
    rw [length_of_mem_sboxRows _ (List.getElem_mem hrow)]
    omega
  refine ⟨_, List.getElem?_eq_getElem hrow, ?_⟩
  rw [List.getElem?_eq_getElem hcol, sbox, List.getD_eq_getElem _ _ hrow, List.getD_eq_getElem _ _ hcol]

/-- Settles O16: the table is sixteen rows of sixteen, and a bijection by its algebraic form. -/
theorem sboxValues : Obligations.SboxValues := ⟨sbox_is_entry, sbox_bijective, by decide⟩

/-! ### XTIME32 and MIXCOL32 (R522, R523) -/

/-- Four bytes decide the word. -/
theorem word_ext_byteAt {v w : U32} (h : ∀ k : Fin 4, byteAt v k.val = byteAt w k.val) : v = w := by
  rw [← le32_byteAt v, ← le32_byteAt w]
  exact congr (congr (congr (congrArg le32 (h 0)) (h 1)) (h 2)) (h 3)

/-- The mask of the shift clears the bit that crossed into a lane (R522). -/
theorem byteAt_shiftLeft_masked (w : U32) (k : Fin 4) : byteAt ((w <<< 1) &&& 0xFEFEFEFE#32) k.val = byteAt w k.val <<< 1 := by
  have hmask : ∀ (k : Fin 4) (i : Fin 8), (0xFEFEFEFE#32).getLsbD (8 * k.val + i.val) = decide (i ≠ 0) := by decide
  apply BitVec.eq_of_getLsbD_eq
  intro i hi
  rw [byteAt_getLsbD, BitVec.getLsbD_and, hmask k ⟨i, hi⟩, BitVec.getLsbD_shiftLeft, BitVec.getLsbD_shiftLeft, byteAt_getLsbD]
  cases i with
  | zero => simp
  | succ j =>
    have hbit : 8 * k.val + (j + 1) - 1 = 8 * k.val + j := by omega
    simp [hbit, hi, show 8 * k.val + (j + 1) < 32 by omega, show j < 8 by omega]

/-- The reduction adds 0x1B into the lanes whose top bit was set, and into no other (R522). -/
theorem byteAt_reduction (w : U32) (k : Fin 4) :
    byteAt (((w >>> 7) &&& 0x01010101#32) * 0x1B#32) k.val = if (byteAt w k.val).getLsbD 7 then 0x1B#8 else 0x00#8 := by
  have htop : (byteAt w k.val).getLsbD 7 = ![w.getLsbD 7, w.getLsbD 15, w.getLsbD 23, w.getLsbD 31] k := by
    rw [byteAt_getLsbD]
    fin_cases k <;> rfl
  rw [htop, laneTops_eq]
  clear htop
  generalize w.getLsbD 7 = b7
  generalize w.getLsbD 15 = b15
  generalize w.getLsbD 23 = b23
  generalize w.getLsbD 31 = b31
  revert k b7 b15 b23 b31
  decide

/-- XTIME32 doubles each byte by itself (R522). -/
theorem byteAt_xtime32 (w : U32) (k : Fin 4) : byteAt (xtime32 w) k.val = xtime (byteAt w k.val) := by
  rw [xtime32, byteAt_xor, byteAt_shiftLeft_masked, byteAt_reduction, xtime]

/-- Settles O18: lane by lane, the mask keeps the shift and the multiply keeps the reduction inside the lane. -/
theorem xtime32Lanes : Obligations.Xtime32Lanes := ⟨fun _ => rfl, byteAt_xtime32, by decide⟩

/-- XTIME32 on a word of four bytes. -/
theorem xtime32_le32 (b0 b1 b2 b3 : U8) : xtime32 (le32 b0 b1 b2 b3) = le32 (xtime b0) (xtime b1) (xtime b2) (xtime b3) := by
  refine word_ext_byteAt fun k => ?_
  rw [byteAt_xtime32]
  fin_cases k <;> simp

/-- A row of MixColumns: `2*a0 ^ 3*a1 ^ a2 ^ a3` (R525). -/
def mixByte (a0 a1 a2 a3 : U8) : U8 := xtime a0 ^^^ (xtime a1 ^^^ a1) ^^^ a2 ^^^ a3

/-- MIXCOL32 of the word `le32(a1, a2, a3, a0)` is the column that MixColumns makes of `a0, a1, a2, a3` (R523, R525). -/
theorem mixcol32_le32 (a0 a1 a2 a3 : U8) : mixcol32 (le32 a1 a2 a3 a0) =
    le32 (mixByte a0 a1 a2 a3) (mixByte a1 a2 a3 a0) (mixByte a2 a3 a0 a1) (mixByte a3 a0 a1 a2) := by
  simp only [mixcol32, xtime32_le32, rotl32_le32_16, rotl32_le32_8, le32_xor, mixByte]
  congr 1 <;> ac_rfl

/-- The row sum `2^3^1^1` is 1 (R523). -/
theorem mixByte_self (b : U8) : mixByte b b b b = b := by
  simp [mixByte]

/-- Settles O19: a column of four equal bytes is kept because the row sum is 1. -/
theorem mixcol32Values : Obligations.Mixcol32Values :=
  ⟨fun _ => rfl, fun b => by rw [mixcol32_le32, mixByte_self], by decide⟩

/-- Doubling is linear over XOR. -/
theorem xtime_xor (a b : U8) : xtime (a ^^^ b) = xtime a ^^^ xtime b := by
  have hconst : ∀ p q : Bool, (if p ^^ q then 0x1B#8 else 0x00#8) =
      (if p then 0x1B#8 else 0x00#8) ^^^ (if q then 0x1B#8 else 0x00#8) := by decide
  rw [xtime, xtime, xtime, BitVec.shiftLeft_xor_distrib, BitVec.getLsbD_xor, hconst]
  ac_rfl

/-- A row of MixColumns is linear over XOR. -/
theorem mixByte_xor (a0 a1 a2 a3 b0 b1 b2 b3 : U8) :
    mixByte (a0 ^^^ b0) (a1 ^^^ b1) (a2 ^^^ b2) (a3 ^^^ b3) = mixByte a0 a1 a2 a3 ^^^ mixByte b0 b1 b2 b3 := by
  simp only [mixByte, xtime_xor]
  ac_rfl

/-- MIXCOL32 is linear over XOR. -/
theorem mixcol32_xor (v w : U32) : mixcol32 (v ^^^ w) = mixcol32 v ^^^ mixcol32 w := by
  rw [← le32_byteAt v, ← le32_byteAt w]
  simp only [le32_xor, mixcol32_le32, mixByte_xor]

/-- MIXCOL32 four times over is the identity: it multiplies the column by a polynomial over GF(2^8) whose fourth power is 1. Both
sides being linear, the 32 words of a single bit decide it. -/
theorem mixcol32_iterate_four (w : U32) : mixcol32^[4] w = w := by
  refine linear_ext (f := mixcol32^[4]) (g := id) ?_ (fun _ _ => rfl) (by decide) w
  intro v w
  simp only [Function.iterate_succ_apply, Function.iterate_zero, id, mixcol32_xor]

/-- MIXCOL32 is invertible (R526). -/
theorem mixcol32_bijective : Function.Bijective mixcol32 :=
  Function.bijective_iff_has_inverse.mpr ⟨mixcol32^[3], mixcol32_iterate_four, fun w =>
    (Function.iterate_succ_apply' mixcol32 3 w).symm.trans (mixcol32_iterate_four w)⟩

/-! ### The round AESR (R524, R525, R526) -/

/-- Word `j` of the round (R524). -/
@[simp] theorem aesr_get (x k : Quad) (j : Fin 4) : (aesr x k).get j = mixcol32 (gather (subByte x) j) ^^^ k.get j :=
  Quad.get_ofFn _ j

/-- The round key enters by the final XOR only (R526). -/
theorem aesr_eq_xor (x k : Quad) : aesr x k = (aesr x (.fill 0)).xor k :=
  Quad.ext_get fun j => by simp

/-- Settles O20: the gather is the rule's in its own order, and the fixed values are the model's. -/
theorem aesrValues : Obligations.AesrValues := by
  have hzero : aesr (.fill 0) (.fill 0) = .fill 0x63636363 := by decide
  refine ⟨fun x k j => ?_, fun k => ⟨hzero, by rw [aesr_eq_xor, hzero]⟩, by decide, by decide⟩
  rw [aesr_get, gather, le32_eq_gather_order]
  rfl

/-- The substituted byte of row `r` of column `j + r`, which ShiftRows brings into column `j` (R525). -/
def shiftedRow (x : Quad) (j : Fin 4) (r : Nat) : U8 := sbox (quadByte x (Fin.ofNat 16 (4 * ((j.val + r % 4) % 4) + r % 4)))

/-- Rows are counted modulo 4. -/
theorem shiftedRow_add_four (x : Quad) (j : Fin 4) (r : Nat) : shiftedRow x j (r + 4) = shiftedRow x j r := by
  rw [shiftedRow, Nat.add_mod_right, shiftedRow]

/-- The gathered word is the column that ShiftRows makes, its row 0 in the top byte (R525). -/
theorem gather_eq_shiftedRow (x : Quad) (j : Fin 4) :
    gather (subByte x) j = le32 (shiftedRow x j 1) (shiftedRow x j 2) (shiftedRow x j 3) (shiftedRow x j 0) := by
  fin_cases j <;> rfl

/-- Byte `r` of MIXCOL32 of the column that ShiftRows makes is row `r` of MixColumns (R525). -/
theorem byteAt_mixcol32_gather (x : Quad) (j r : Fin 4) : byteAt (mixcol32 (gather (subByte x) j)) r.val =
    mixByte (shiftedRow x j r.val) (shiftedRow x j (r.val + 1)) (shiftedRow x j (r.val + 2)) (shiftedRow x j (r.val + 3)) := by
  rw [gather_eq_shiftedRow, mixcol32_le32]
  fin_cases r
  · exact byteAt_le32_0 ..
  · exact byteAt_le32_1 ..
  · exact byteAt_le32_2 ..
  · exact byteAt_le32_3 ..

/-- Settles O21: MIXCOL32 of the gathered word is MixColumns of the shifted rows. -/
theorem aesrIsAesRound : Obligations.AesrIsAesRound := by
  refine ⟨fun x k j r => ⟨?_, gather_eq_shiftedRow x j⟩, by decide⟩
  rw [aesr_get, byteAt_xor, byteAt_mixcol32_gather]
  rfl

/-- The byte of the state that step (3) puts at byte `n` of the gathered words (R524). -/
def gatherIndex (n : Fin 16) : Fin 16 := Fin.ofNat 16 (4 * ((n.val / 4 + (n.val + 1) % 4) % 4) + (n.val + 1) % 4)

/-- The gather is a permutation of the bytes (R526). -/
theorem gatherIndex_bijective : Function.Bijective gatherIndex := by decide

/-- The gathered words are the sixteen substituted bytes in the order of the gather. -/
theorem gather_subByte (x : Quad) (j : Fin 4) :
    gather (subByte x) j = (quadOfBytes (sbox ∘ quadByte x ∘ gatherIndex)).get j := by
  fin_cases j <;> rfl

/-- A 128-bit value is its sixteen bytes. -/
theorem quadByte_bijective : Function.Bijective quadByte :=
  Function.bijective_iff_has_inverse.mpr ⟨quadOfBytes, quadOfBytes_quadByte, fun t => funext (quadByte_quadOfBytes t)⟩

/-- Sixteen bytes are a 128-bit value. -/
theorem quadOfBytes_bijective : Function.Bijective quadOfBytes :=
  Function.bijective_iff_has_inverse.mpr ⟨quadByte, fun t => funext (quadByte_quadOfBytes t), quadOfBytes_quadByte⟩

/-- Steps (4) and (5) on the gathered words (R524). -/
def diffuse (k y : Quad) : Quad := Quad.ofFn fun j => mixcol32 (y.get j) ^^^ k.get j

/-- Steps (4) and (5) act word by word, each an invertible map (R526). -/
theorem diffuse_bijective (k : Quad) : Function.Bijective (diffuse k) := by
  obtain ⟨unmix, hleft, hright⟩ := Function.bijective_iff_has_inverse.mp mixcol32_bijective
  refine Function.bijective_iff_has_inverse.mpr
    ⟨fun z => Quad.ofFn fun j => unmix (z.get j ^^^ k.get j), fun y => ?_, fun z => ?_⟩
  · exact Quad.ext_get fun j => by simp [diffuse, hleft _]
  · exact Quad.ext_get fun j => by simp [diffuse, hright _]

/-- AESR as the composition of its steps: bytes, gather, substitution, words, diffusion with the key. -/
theorem aesr_eq_comp (k : Quad) :
    (aesr · k) = diffuse k ∘ quadOfBytes ∘ (sbox ∘ ·) ∘ (· ∘ gatherIndex) ∘ quadByte :=
  funext fun x => Quad.ext_get fun j => by simp [diffuse, gather_subByte]

/-- AESR with a fixed key is a bijection, for each of its steps is one (R526). -/
theorem aesr_bijective (k : Quad) : Function.Bijective (aesr · k) := by
  rw [aesr_eq_comp]
  exact (diffuse_bijective k).comp <| quadOfBytes_bijective.comp <| sbox_bijective.comp_left.comp <|
    gatherIndex_bijective.comp_right.comp quadByte_bijective

/-- AESR run alone puts out its value and changes nothing else, whatever the state (R524). -/
theorem exec_aesr (x k : Quad) (s : State) : exec (.aesr x k) s = .next (putUnit s (.quad (aesr x k))) := rfl

/-- Settles O22: the key is the final XOR, each step of the round is a bijection, and the value put out reads no state. -/
theorem aesrLaws : Obligations.AesrLaws := by
  refine ⟨aesr_eq_xor, aesr_bijective, fun x k s s' t t' h h' => ?_⟩
  rw [exec_aesr] at h h'
  cases h
  cases h'
  rfl

end Sys2Proof.Machine

namespace Sys2Proof.Machine

/-! ### SIGMA on the sixteen bytes (R540, R541) -/

/-- The sixteen bytes decide the value. -/
theorem quad_ext_quadByte {x y : Quad} (h : ∀ n, quadByte x n = quadByte y n) : x = y :=
  quadByte_bijective.injective (funext h)

/-- XOR works byte by byte. -/
@[simp] theorem quadByte_xor (x y : Quad) (n : Fin 16) : quadByte (x.xor y) n = quadByte x n ^^^ quadByte y n := by
  rw [quadByte, Quad.get_xor, byteAt_xor]
  rfl

/-- Every byte of a byte-uniform constant is that byte. -/
@[simp] theorem quadByte_fill_le32 (b : U8) (n : Fin 16) : quadByte (.fill (le32 b b b b)) n = b := by
  rw [quadByte, Quad.get_fill]
  exact byteAt_le32 (fun _ => b) ⟨n.val % 4, Nat.mod_lt _ (by decide)⟩

/-- SIGMA moves bytes and does nothing else to them (R541). -/
@[simp] theorem quadByte_sigma (x : Quad) (n : Fin 16) : quadByte (sigma x) n = quadByte x (sigmaIndex n) :=
  quadByte_quadOfBytes _ n

/-- The table is the transpose of the 4x4 byte matrix (R540). -/
theorem sigmaIndex_transpose : ∀ r c : Fin 4, (sigmaIndex (Fin.ofNat 16 (4 * r.val + c.val))).val = 4 * c.val + r.val := by
  decide

/-- The transpose of the transpose is the matrix itself (R542). -/
@[simp] theorem sigmaIndex_sigmaIndex : ∀ n : Fin 16, sigmaIndex (sigmaIndex n) = n := by
  decide

/-- Where all bytes are equal, moving them changes nothing (R541). -/
@[simp] theorem sigma_fill_le32 (b : U8) : sigma (.fill (le32 b b b b)) = .fill (le32 b b b b) :=
  quad_ext_quadByte fun n => by rw [quadByte_sigma, quadByte_fill_le32, quadByte_fill_le32]

/-- Settles O23: the bytes move along the table, equal bytes are a fixed point, and zero is the equal bytes 0. -/
theorem sigmaValues : Obligations.SigmaValues :=
  ⟨quadByte_sigma, sigmaIndex_transpose, sigma_fill_le32, sigma_fill_le32 0, by decide⟩

/-! ### The laws of SIGMA (R542) -/

/-- SIGMA is its own inverse, as the table is. -/
theorem sigma_involutive : Function.Involutive sigma := fun x =>
  quad_ext_quadByte fun n => by rw [quadByte_sigma, quadByte_sigma, sigmaIndex_sigmaIndex]

/-- SIGMA is linear over XOR: both move or combine whole bytes. -/
theorem sigma_xor (x y : Quad) : sigma (x.xor y) = (sigma x).xor (sigma y) :=
  quad_ext_quadByte fun n => by simp only [quadByte_sigma, quadByte_xor]

/-- Settles O24: an involution is a bijection, and a byte-uniform constant passes through SIGMA as a fixed point of a linear map. -/
theorem sigmaLaws : Obligations.SigmaLaws :=
  ⟨sigma_involutive.bijective, ⟨sigma_involutive, sigmaIndex_sigmaIndex⟩, sigma_xor,
    fun x b => by rw [sigma_xor, sigma_fill_le32]⟩

end Sys2Proof.Machine

namespace Sys2Proof.Machine

/-! ### A register under successive shifts (R560, R563) -/

/-- While a place of the first register is left `n` places up, a register shifted `n` times holds that word (R563). -/
theorem get_of_shifts_of_lt {r : Nat → Lfsr} {w : Nat → U16} (h : ∀ n, r (n + 1) = shiftIn (r n) (w n)) {n : Nat}
    {k : Fin 16} (hk : k.val + n < 16) : (r n).get k = (r 0).get (Fin.ofNat 16 (k.val + n)) := by
  induction n generalizing k with
  | zero => rw [Nat.add_zero, Fin.ofNat_val_eq_self]
  | succ n ih =>
    have hk' : k.val + 1 + n < 16 := by omega
    rw [h, shiftIn_get, dif_pos (by omega), ih hk', Nat.add_right_comm, Nat.add_assoc]

/-- The words above those are the ones shifted in, the first of them lowest (R560). -/
theorem get_of_shifts_of_eq {r : Nat → Lfsr} {w : Nat → U16} (h : ∀ n, r (n + 1) = shiftIn (r n) (w n)) {n j : Nat}
    {k : Fin 16} (hk : k.val + n = 16 + j) : (r n).get k = w j := by
  induction n generalizing k with
  | zero => omega
  | succ n ih =>
    rw [h, shiftIn_get]
    split
    case isTrue hlow =>
      have hk' : k.val + 1 + n = 16 + j := by omega
      exact ih hk'
    case isFalse hlast =>
      have hn : n = j := by omega
      rw [hn]

/-! ### LFSR_STEP and LFSR_ADVANCE as iterates of the step (R560, R561, R563) -/

/-- `n` steps are the step iterated (R561). -/
theorem lfsrSteps_eq_iterate (n : Nat) (p : LfsrPair) : lfsrSteps n p = lfsrStep^[n] p := by
  induction n generalizing p with
  | zero => rfl
  | succ n ih => rw [lfsrSteps, ih, Function.iterate_succ_apply]

/-- LFSR_ADVANCE is the step iterated as often as the parameter says (R561). -/
theorem lfsrAdvance_eq_iterate (cfg : Config) : lfsrAdvance cfg = lfsrStep^[cfg.lfsrStepsPerBlock.toNat] :=
  funext (lfsrSteps_eq_iterate _)

/-- Each step shifts the tap word into A (R560). -/
theorem iterate_lfsrStep_succ_a (p : LfsrPair) (n : Nat) :
    (lfsrStep^[n + 1] p).a = shiftIn (lfsrStep^[n] p).a (tapU (lfsrStep^[n] p)) := by
  rw [Function.iterate_succ_apply', lfsrStep]

/-- Each step shifts the tap word into B (R560). -/
theorem iterate_lfsrStep_succ_b (p : LfsrPair) (n : Nat) :
    (lfsrStep^[n + 1] p).b = shiftIn (lfsrStep^[n] p).b (tapV (lfsrStep^[n] p)) := by
  rw [Function.iterate_succ_apply', lfsrStep]

/-- The shift-register property of `n` steps (R563). -/
theorem iterate_lfsrStep_get_of_lt (p : LfsrPair) {n : Nat} {k : Fin 16} (hk : k.val + n < 16) :
    (lfsrStep^[n] p).a.get k = p.a.get (Fin.ofNat 16 (k.val + n)) ∧
    (lfsrStep^[n] p).b.get k = p.b.get (Fin.ofNat 16 (k.val + n)) :=
  ⟨get_of_shifts_of_lt (r := fun n => (lfsrStep^[n] p).a) (iterate_lfsrStep_succ_a p) hk,
    get_of_shifts_of_lt (r := fun n => (lfsrStep^[n] p).b) (iterate_lfsrStep_succ_b p) hk⟩

/-- The fresh words of `n` steps are the tap words of those steps (R560). -/
theorem iterate_lfsrStep_get_of_eq (p : LfsrPair) {n j : Nat} {k : Fin 16} (hk : k.val + n = 16 + j) :
    (lfsrStep^[n] p).a.get k = tapU (lfsrStep^[j] p) ∧ (lfsrStep^[n] p).b.get k = tapV (lfsrStep^[j] p) :=
  ⟨get_of_shifts_of_eq (r := fun n => (lfsrStep^[n] p).a) (w := fun n => tapU (lfsrStep^[n] p))
      (iterate_lfsrStep_succ_a p) hk,
    get_of_shifts_of_eq (r := fun n => (lfsrStep^[n] p).b) (w := fun n => tapV (lfsrStep^[n] p))
      (iterate_lfsrStep_succ_b p) hk⟩

/-- Settles O31: a step and an advance are both iterates of the step. -/
theorem lfsrShiftProperty : Obligations.LfsrShiftProperty := by
  refine ⟨fun p k hk => iterate_lfsrStep_get_of_lt (n := 1) p hk, fun cfg p k hk => ?_⟩
  rw [lfsrAdvance_eq_iterate]
  exact iterate_lfsrStep_get_of_lt p hk

/-! ### The parallel form (R562) -/

/-- The step of number `j` below 8 reads no word that an earlier step produced: its tap words are those of the words before the
first step, `j` places up (R562). -/
theorem taps_iterate_lfsrStep (p : LfsrPair) {j : Nat} (hj : j < 8) :
    let w := fun i => Fin.ofNat 16 (i + j)
    tapU (lfsrStep^[j] p) = mulxA (p.a.get (w 0)) ^^^ p.a.get (w 1) ^^^ mulxInvA (p.a.get (w 8)) ^^^ p.b.get (w 0) ∧
    tapV (lfsrStep^[j] p) = mulxB (p.b.get (w 0)) ^^^ p.b.get (w 3) ^^^ mulxInvB (p.b.get (w 8)) ^^^ p.a.get (w 0) := by
  have old (i : Fin 16) (hi : i.val ≤ 8) := iterate_lfsrStep_get_of_lt p (n := j) (k := i) (by omega)
  obtain ⟨ha0, hb0⟩ := old 0 (by decide)
  obtain ⟨ha1, -⟩ := old 1 (by decide)
  obtain ⟨-, hb3⟩ := old 3 (by decide)
  obtain ⟨ha8, hb8⟩ := old 8 (by decide)
  rw [tapU, tapV, ha0, hb0, ha1, hb3, ha8, hb8]
  exact ⟨rfl, rfl⟩

/-- Settles O30: of eight steps, the words below 8 are old words, and word `8+j` is the tap word of step `j`. -/
theorem lfsrParallelForm : Obligations.LfsrParallelForm := by
  intro cfg p k hcfg w
  rw [lfsrAdvance_eq_iterate, hcfg]
  by_cases hk : k.val < 8
  case pos =>
    rw [if_pos hk, if_pos hk]
    exact iterate_lfsrStep_get_of_lt p (n := 8) (by omega)
  case neg =>
    obtain ⟨j, hj⟩ := Nat.exists_eq_add_of_le (Nat.le_of_not_lt hk)
    obtain ⟨hu, hv⟩ := taps_iterate_lfsrStep p (j := j) (by omega)
    obtain ⟨ha, hb⟩ := iterate_lfsrStep_get_of_eq p (n := 8) (j := j) (k := k) (by omega)
    have h0 : k.val - 8 = 0 + j := by omega
    have h1 : k.val - 7 = 1 + j := by omega
    have h3 : k.val - 5 = 3 + j := by omega
    have h8 : Fin.ofNat 16 (8 + j) = k := hj ▸ Fin.ofNat_val_eq_self k
    rw [if_neg hk, if_neg hk, h0, h1, h3]
    exact ⟨ha.trans (h8 ▸ hu), hb.trans (h8 ▸ hv)⟩

/-! ### LFSR_STEP and LFSR_ADVANCE run alone (R560, R561) -/

/-- LFSR_STEP completes where A and B hold values (R560). -/
theorem exec_lfsrStep_of_written {s : State} (ha : s.a.written = true) (hb : s.b.written = true) :
    exec .lfsrStep s = .next (writePair s (lfsrStep ⟨s.a.val, s.b.val⟩)) := by
  change execLfsrStep s = _
  rw [execLfsrStep, readPair_of_written ha hb]
  rfl

/-- LFSR_ADVANCE completes where A and B hold values, and runs as many steps as the parameter says (R561). -/
theorem exec_lfsrAdvance_of_written {s : State} (ha : s.a.written = true) (hb : s.b.written = true) :
    exec .lfsrAdvance s = .next (writePair s (lfsrStep^[s.cfg.lfsrStepsPerBlock.toNat] ⟨s.a.val, s.b.val⟩)) := by
  change execLfsrAdvance s = _
  rw [execLfsrAdvance, readPair_of_written ha hb, lfsrAdvance_eq_iterate]
  rfl

/-- Settles O28: the step's words are those of the shift, its last words the taps, and the fixed values are the model's. -/
theorem lfsrStepResult : Obligations.LfsrStepResult := by
  refine ⟨fun s ha hb => ?_, by decide, by decide, by decide, by decide⟩
  exact ⟨_, exec_lfsrStep_of_written ha hb, rfl, rfl, rfl,
    fun k hk => iterate_lfsrStep_get_of_lt (n := 1) _ (by omega), rfl, rfl⟩

/-- Settles O29: the advance is the step iterated once or eight times, its lower words are old words by the shift-register property,
and the fixed value is the model's. -/
theorem lfsrAdvanceResult : Obligations.LfsrAdvanceResult := by
  refine ⟨fun s ha hb => ⟨fun hcfg => ?_, fun hcfg => ?_⟩, fun cfg p k hcfg => ?_, by decide⟩
  · rw [exec_lfsrAdvance_of_written ha hb, hcfg]
    rfl
  · rw [exec_lfsrAdvance_of_written ha hb, hcfg]
    rfl
  · have hval : (Fin.ofNat 16 k.val).val = k.val := Nat.mod_eq_of_lt (by omega)
    have hold := iterate_lfsrStep_get_of_lt p (n := 8) (k := Fin.ofNat 16 k.val) (by omega)
    rw [hval] at hold
    rwa [lfsrAdvance_eq_iterate, hcfg]

/-! ### Linearity (R565) -/

/-- XOR of register pairs, word by word. -/
def xorPair (p q : LfsrPair) : LfsrPair := ⟨p.a.xor q.a, p.b.xor q.b⟩

/-! The four multipliers of R508 (b), each as an equation to rewrite by. -/

theorem mulxA_xor (v w : U16) : mulxA (v ^^^ w) = mulxA v ^^^ mulxA w := mulx_xor v w _
theorem mulxInvA_xor (v w : U16) : mulxInvA (v ^^^ w) = mulxInvA v ^^^ mulxInvA w := mulxInv_xor v w _
theorem mulxB_xor (v w : U16) : mulxB (v ^^^ w) = mulxB v ^^^ mulxB w := mulx_xor v w _
theorem mulxInvB_xor (v w : U16) : mulxInvB (v ^^^ w) = mulxInvB v ^^^ mulxInvB w := mulxInv_xor v w _

/-- The tap word for A is linear, as the multipliers are. -/
theorem tapU_xorPair (p q : LfsrPair) : tapU (xorPair p q) = tapU p ^^^ tapU q := by
  simp only [tapU, xorPair, Lfsr.get_xor, mulxA_xor, mulxInvA_xor]
  ac_rfl

/-- The tap word for B is linear, as the multipliers are. -/
theorem tapV_xorPair (p q : LfsrPair) : tapV (xorPair p q) = tapV p ^^^ tapV q := by
  simp only [tapV, xorPair, Lfsr.get_xor, mulxB_xor, mulxInvB_xor]
  ac_rfl

/-- A shift moves words and does nothing else to them. -/
theorem shiftIn_xor (l m : Lfsr) (v w : U16) : shiftIn (l.xor m) (v ^^^ w) = (shiftIn l v).xor (shiftIn m w) := rfl

/-- LFSR_STEP is linear over XOR (R565). -/
theorem lfsrStep_xorPair (p q : LfsrPair) : lfsrStep (xorPair p q) = xorPair (lfsrStep p) (lfsrStep q) := by
  rw [lfsrStep, tapU_xorPair, tapV_xorPair]
  exact congr (congrArg LfsrPair.mk (shiftIn_xor _ _ _ _)) (shiftIn_xor _ _ _ _)

/-- Any number of steps is linear over XOR (R565). -/
theorem iterate_lfsrStep_xorPair (n : Nat) (p q : LfsrPair) :
    lfsrStep^[n] (xorPair p q) = xorPair (lfsrStep^[n] p) (lfsrStep^[n] q) := by
  induction n with
  | zero => rfl
  | succ n ih => simp only [Function.iterate_succ_apply', ih, lfsrStep_xorPair]

/-- Settles O32: the shift and the tap words are linear, and the advance is an iterate of the step. -/
theorem lfsrLinear : Obligations.LfsrLinear := by
  refine ⟨lfsrStep_xorPair, fun cfg p q => ?_⟩
  rw [lfsrAdvance_eq_iterate]
  exact iterate_lfsrStep_xorPair _ p q

/-! ### Bijectivity (R565) -/

/-- The linear map on 16-bit words that takes each single bit to its column, bit 0 to the first. -/
def applyColumns (columns : List U16) (v : U16) : U16 :=
  match columns with
  | [] => 0#16
  | c :: cs => (if v.getLsbD 0 then c else 0#16) ^^^ applyColumns cs (v >>> 1)

theorem applyColumns_xor (columns : List U16) (v w : U16) :
    applyColumns columns (v ^^^ w) = applyColumns columns v ^^^ applyColumns columns w := by
  induction columns generalizing v w with
  | nil => exact BitVec.xor_zero.symm
  | cons c cs ih =>
    simp only [applyColumns, BitVec.getLsbD_xor, ite_xor_const, BitVec.ushiftRight_xor_distrib, ih]
    ac_rfl

/-- The map of R565: what the tap words leave for the old `B[0]` once the old `A[0]` is eliminated. -/
def headMap (b : U16) : U16 := mulxA (mulxB b) ^^^ b

theorem headMap_xor (v w : U16) : headMap (v ^^^ w) = headMap v ^^^ headMap w := by
  simp only [headMap, mulxA_xor, mulxB_xor]
  ac_rfl

/-- The inverse of `headMap`, given by its columns: the words that `headMap` takes to the single bits. -/
def headMapInv (v : U16) : U16 :=
  applyColumns [0x7856, 0xD094, 0x7857, 0xD096, 0x7853, 0xD09E, 0x7843, 0xD0BE,
    0x7803, 0xD03E, 0x7903, 0xD23E, 0x7D03, 0xDA3E, 0x6D03, 0xFA3E] v

/-- `headMapInv` undoes `headMap`: both are linear, so the sixteen words of a single bit decide it. -/
theorem headMapInv_headMap : Function.LeftInverse headMapInv headMap := by
  refine linear_ext (f := headMapInv ∘ headMap) (g := id) (fun v w => ?_) (fun _ _ => rfl) (by decide)
  rw [Function.comp_apply, headMap_xor]
  exact applyColumns_xor _ _ _

theorem headMap_bijective : Function.Bijective headMap :=
  Finite.injective_iff_bijective.mp headMapInv_headMap.injective

/-- The old `A[0]` cancels from the two tap words (R565, items 1 and 2). -/
theorem headMap_eq (a b : U16) : headMap b = mulxA (mulxB b ^^^ a) ^^^ (mulxA a ^^^ b) := by
  rw [mulxA_xor, BitVec.xor_assoc, ← BitVec.xor_assoc (mulxA a), BitVec.xor_self, BitVec.zero_xor, headMap]

/-- The words that a step discards can be solved from their terms in the tap words (R565). -/
theorem heads_injective {a b a' b' : U16} (hu : mulxA a ^^^ b = mulxA a' ^^^ b') (hv : mulxB b ^^^ a = mulxB b' ^^^ a') :
    a = a' ∧ b = b' := by
  have hb : b = b' := headMap_bijective.injective (by rw [headMap_eq a b, headMap_eq a' b', hu, hv])
  subst hb
  exact ⟨(BitVec.xor_right_inj _).mp hv, rfl⟩

/-- A shift moves every word but word 0 one place down (R560). -/
theorem shiftIn_get_castSucc (l : Lfsr) (w : U16) (i : Fin 15) : (shiftIn l w).get i.castSucc = l.get i.succ := by
  rw [shiftIn_get]
  exact dif_pos i.isLt

/-- Two shifts with the same result shift in the same word, and their registers agree but for word 0. -/
theorem eq_of_shiftIn_eq {l m : Lfsr} {v w : U16} (h : shiftIn l v = shiftIn m w) :
    v = w ∧ ∀ k : Fin 16, k ≠ 0 → l.get k = m.get k := by
  refine ⟨congrArg (·.get 15) h, fun k hk => ?_⟩
  obtain ⟨i, rfl⟩ := Fin.exists_succ_eq.mpr hk
  rw [← shiftIn_get_castSucc l v, h, shiftIn_get_castSucc]

/-- The tap word for A, the terms that the step keeps apart from those in the discarded words. -/
theorem tapU_eq_kept_xor_head (p : LfsrPair) :
    tapU p = (p.a.get 1 ^^^ mulxInvA (p.a.get 8)) ^^^ (mulxA (p.a.get 0) ^^^ p.b.get 0) := by
  rw [tapU]
  ac_rfl

/-- The tap word for B, the terms that the step keeps apart from those in the discarded words. -/
theorem tapV_eq_kept_xor_head (p : LfsrPair) :
    tapV p = (p.b.get 3 ^^^ mulxInvB (p.b.get 8)) ^^^ (mulxB (p.b.get 0) ^^^ p.a.get 0) := by
  rw [tapV]
  ac_rfl

/-- The words decide the pair. -/
theorem lfsrPair_ext_get {p q : LfsrPair} (ha : ∀ k, p.a.get k = q.a.get k) (hb : ∀ k, p.b.get k = q.b.get k) : p = q :=
  congr (congrArg LfsrPair.mk (Lfsr.ext_get ha)) (Lfsr.ext_get hb)

/-- A step forgets nothing: it keeps all words but two, and these are solved from the tap words (R565). -/
theorem lfsrStep_injective : Function.Injective lfsrStep := by
  intro p q h
  obtain ⟨hu, ha⟩ := eq_of_shiftIn_eq (congrArg LfsrPair.a h)
  obtain ⟨hv, hb⟩ := eq_of_shiftIn_eq (congrArg LfsrPair.b h)
  rw [tapU_eq_kept_xor_head, tapU_eq_kept_xor_head, ha 1 (by decide), ha 8 (by decide), BitVec.xor_right_inj] at hu
  rw [tapV_eq_kept_xor_head, tapV_eq_kept_xor_head, hb 3 (by decide), hb 8 (by decide), BitVec.xor_right_inj] at hv
  obtain ⟨ha0, hb0⟩ := heads_injective hu hv
  exact lfsrPair_ext_get (Fin.cases ha0 fun i => ha _ i.succ_ne_zero) (Fin.cases hb0 fun i => hb _ i.succ_ne_zero)

/-- There are finitely many register pairs. -/
theorem finite_lfsrPair : Finite LfsrPair :=
  Finite.of_injective (fun p : LfsrPair => (p.a.get, p.b.get)) fun _ _ h =>
    lfsrPair_ext_get (congrFun (congrArg Prod.fst h)) (congrFun (congrArg Prod.snd h))

/-- Settles O33: the step is injective on finitely many pairs, and the advance is an iterate of it. -/
theorem lfsrBijective : Obligations.LfsrBijective := by
  have hfinite := finite_lfsrPair
  have hstep := Finite.injective_iff_bijective.mp lfsrStep_injective
  refine ⟨headMap_bijective, hstep, fun cfg => ?_⟩
  rw [lfsrAdvance_eq_iterate]
  exact hstep.iterate _

end Sys2Proof.Machine

namespace Sys2Proof.Machine

/-! ### FSM_ADVANCE (R580, R581, R582) -/

/-- The five steps in order are one simultaneous update: R3 takes the old R2, and R2 the old R1 (R582). -/
theorem fsmAdvance_eq (a : Lfsr) (k1 k2 : Quad) (r : FsmRegs) :
    fsmAdvance a k1 k2 r = ⟨sigma (fsmSum a r.r2 r.r3), aesr r.r1 k1, aesr r.r2 k2⟩ := rfl

/-- FSM_ADVANCE completes where the six registers it reads hold values, and writes R1, R2 and R3 (R581). -/
theorem exec_fsmAdvance_of_written {s : State} (ha : s.a.written = true) (h1 : s.r1.written = true)
    (h2 : s.r2.written = true) (h3 : s.r3.written = true) (hk1 : s.k1.written = true) (hk2 : s.k2.written = true) :
    exec .fsmAdvance s =
      .next (writeFsm s (fsmAdvance s.a.val s.k1.val s.k2.val ⟨s.r1.val, s.r2.val, s.r3.val⟩)) := by
  change execFsmAdvance s = _
  rw [execFsmAdvance, readFsm_of_written h1 h2 h3, regRead_of_written ha, regRead_of_written hk1, regRead_of_written hk2]
  rfl

/-- Settles O34: the registers written are those of the simultaneous form, whose right sides are all values before the step. -/
theorem fsmAdvanceResult : Obligations.FsmAdvanceResult := by
  intro s ha h1 h2 h3 hk1 hk2
  rw [exec_fsmAdvance_of_written ha h1 h2 h3 hk1 hk2, fsmAdvance_eq]
  rfl

/-- Lane `i` of the sums (R581, step 2). -/
@[simp] theorem fsmSum_get (a : Lfsr) (r2 r3 : Quad) (i : Fin 4) :
    (fsmSum a r2 r3).get i = (t2 a i ^^^ r3.get i) + r2.get i := Quad.get_ofFn _ i

/-- Settles O35: the carry out of the sum is dropped, and the fixed values are those of the simultaneous form. -/
theorem fsmAdvanceExamples : Obligations.FsmAdvanceExamples := by
  refine ⟨by decide, fun a r2 r3 i hxor hone => ?_, by decide⟩
  rw [fsmSum_get, hxor, hone]
  rfl

end Sys2Proof.Machine

namespace Sys2Proof.Machine

/-! ### NEXT repeated in READY (R605, R630) -/

/-- What a NEXT leaves in READY over registers that hold values: one generation, its block in ks_out (R630). -/
def afterNext (s : State) : State :=
  { writeGenerated s (genBlock s.cfg (cipherOf s)).2 with
    ksOut := regWrite (genBlock s.cfg (cipherOf s)).1, ksValid := true }

/-- In READY, over registers that hold values, NEXT has that state as its next. -/
theorem exec_next_of_ready_written {s : State} (hp : s.phase = .ready) (hw : CipherWritten s) :
    exec .next s = .next (afterNext s) := execNext_of_ready_written hp hw

/-- A NEXT in READY stays there. -/
theorem afterNext_phase (s : State) : (afterNext s).phase = s.phase := rfl

/-- After a NEXT the registers hold values again: it writes five of them, and the round keys keep theirs. -/
theorem cipherWritten_afterNext {s : State} (hw : CipherWritten s) : CipherWritten (afterNext s) := by
  obtain ⟨-, -, -, -, -, hk1, hk2⟩ := hw
  exact ⟨rfl, rfl, rfl, rfl, rfl, hk1, hk2⟩

/-- The values after a NEXT are one generation of those before it, the round keys being no part of what it writes (R603). -/
theorem cipherOf_afterNext (s : State) : cipherOf (afterNext s) = (genBlock s.cfg (cipherOf s)).2 := rfl

/-- A first NEXT in READY, and then the others. -/
theorem nextTimes_succ_of_ready_written {s : State} (n : Nat) (hp : s.phase = .ready) (hw : CipherWritten s) :
    nextTimes (n + 1) s = nextTimes n (afterNext s) := by
  rw [nextTimes, exec_next_of_ready_written hp hw]

/-- Any number of NEXTs from READY: each finds READY and seven values, and leaves them, the next generation's (R605). -/
theorem nextTimes_of_ready_written (n : Nat) {s : State} (hp : s.phase = .ready) (hw : CipherWritten s) :
    ∃ t, nextTimes (n + 1) s = .next t ∧ t.phase = .ready ∧ CipherWritten t ∧ t.ksValid = true ∧
      t.ksOut = regWrite (genBlock s.cfg (generations s.cfg n (cipherOf s))).1 ∧
      cipherOf t = generations s.cfg (n + 1) (cipherOf s) := by
  induction n generalizing s with
  | zero =>
    exact ⟨afterNext s, nextTimes_succ_of_ready_written 0 hp hw, hp, cipherWritten_afterNext hw, rfl, rfl,
      cipherOf_afterNext s⟩
  | succ n ih =>
    rw [nextTimes_succ_of_ready_written (n + 1) hp hw]
    exact ih ((afterNext_phase s).trans hp) (cipherWritten_afterNext hw)

/-- What an INIT leaves outside FAULTED: the warmed-up registers, no block, and READY (R629). -/
def afterInit (alt : Bool) (s : State) : State :=
  { writeCipher s (initCipher s.cfg s.ports.keyIn s.ports.nonceIn alt) with
    ksOut := .blank 0, ksValid := false, phase := .ready }

/-- Outside FAULTED, INIT has that state as its next. -/
theorem exec_init_of_running {alt : Bool} {s : State} (hrun : s.phase ≠ .faulted) :
    exec (.init alt) s = .next (afterInit alt s) := execInit_eq_next.mpr ⟨hrun, rfl⟩

/-- After an INIT all seven registers hold values. -/
theorem cipherWritten_afterInit (alt : Bool) (s : State) : CipherWritten (afterInit alt s) :=
  cipherWritten_writeCipher s _

/-- The values after an INIT are those of its warm-up. -/
theorem cipherOf_afterInit (alt : Bool) (s : State) :
    cipherOf (afterInit alt s) = initCipher s.cfg s.ports.keyIn s.ports.nonceIn alt := rfl

/-- An INIT keeps the parameters. -/
theorem afterInit_cfg (alt : Bool) (s : State) : (afterInit alt s).cfg = s.cfg := rfl

/-- Settles O47: INIT leaves READY over the values of its warm-up, and from there each NEXT is one generation. -/
theorem keystreamIsAFunction : Obligations.KeystreamIsAFunction := by
  refine ⟨fun n alt s hrun => ?fromInit, fun n s => nextTimes_of_ready_written n⟩
  case fromInit =>
    obtain ⟨u, hu, -, -, hvalid, hout, -⟩ := nextTimes_of_ready_written n rfl (cipherWritten_afterInit alt s)
    rw [cipherOf_afterInit, afterInit_cfg] at hout
    exact ⟨afterInit alt s, u, exec_init_of_running hrun, hu, hvalid, hout⟩

/-! ### Combiner and generation (R600 to R604) -/

/-- `T1` of lane 0 is made of words 9 and 8 of B (R600). -/
theorem t1_zero (b : Lfsr) : t1 b 0 = u32OfHalves (b.get 9) (b.get 8) := rfl

/-- Settles O36: the lane's value is the rule's formula, the carry out is dropped, and the example is that formula on lane 0. -/
theorem ksCombineValues : Obligations.KsCombineValues := by
  refine ⟨fun b r1 r2 i => rfl, by decide, fun b r1 r2 h9 h8 hr1 hr2 => ?ruleExample⟩
  case ruleExample =>
    rw [ksCombine, t1_zero, h9, h8, hr1, hr2]
    rfl

/-- GEN_BLOCK as one function of the values before it: the FSM reads the old A, and LFSR_ADVANCE the old pair (R604). -/
theorem genBlock_eq (cfg : Config) (c : Cipher) : genBlock cfg c =
    (serialize (Quad.ofFn (ksCombine c.b c.r1 c.r2)),
      { a := (lfsrAdvance cfg ⟨c.a, c.b⟩).a, b := (lfsrAdvance cfg ⟨c.a, c.b⟩).b,
        r1 := sigma (fsmSum c.a c.r2 c.r3), r2 := aesr c.r1 c.k1, r3 := aesr c.r2 c.k2, k1 := c.k1, k2 := c.k2 }) := rfl

/-- GEN_BLOCK completes where all seven registers hold values, writes five of them and puts out its block (R603). -/
theorem exec_genBlock_of_written {s : State} (hw : CipherWritten s) :
    exec .genBlock s = .next (putUnit (writeGenerated s (genBlock s.cfg (cipherOf s)).2)
      (.block (genBlock s.cfg (cipherOf s)).1)) := by
  change execGenBlock s = _
  rw [execGenBlock, readCipher_of_written hw]
  rfl

/-- Settles O37: the registers written and the block are those of the simultaneous form on the values before the step. -/
theorem genBlockResult : Obligations.GenBlockResult := by
  intro s hw
  refine ⟨_, exec_genBlock_of_written hw, ?_⟩
  rw [genBlock_eq]
  exact ⟨rfl, rfl, rfl, rfl, rfl, rfl, rfl⟩

/-- Settles O26: the eight bits of a lane are its byte. -/
theorem blockSerialization : Obligations.BlockSerialization := byteAt_serialize

end Sys2Proof.Machine

namespace Sys2Proof.Machine

/-! ### INIT leaves nothing of the session before it (R629, R634) -/

/-- Settles O44: the registers INIT leaves are those of `initCipher`, a function of the parameters, the key and the nonce, and the
rest of what the statement names it writes as constants. -/
theorem initForgetsThePast : Obligations.InitForgetsThePast := by
  intro alt s s' t t' hcfg hkey hnonce h h'
  obtain ⟨-, rfl⟩ := execInit_eq_next.mp h
  obtain ⟨-, rfl⟩ := execInit_eq_next.mp h'
  rw [hcfg, hkey, hnonce]
  exact ⟨rfl, rfl, rfl, rfl, rfl, rfl, rfl, rfl, rfl, rfl, rfl⟩

/-! ### Reserved words and the controller's state machine (R631, R632) -/

/-- Outside FAULTED a reserved word is a step: its fault entry, and the host's next transaction (R631). -/
theorem step_of_reserved_of_running {s : State} {r : ReservedWord} (hr : s.ports.rst = false)
    (hd : decode s.ports.cmdIn = .error r) (hrun : s.phase ≠ .faulted) :
    step s = .next (hostAdvance (raiseFault s .reservedCommand)) :=
  (step_of_reserved hr hd).trans (thenHost_eq_next.mpr ⟨_, execReserved_eq_next.mpr ⟨hrun, rfl⟩, rfl⟩)

/-- Settles O48: fault entry writes the phase and the code, and the host's next transaction writes no register of the core. -/
theorem reservedWordFaults : Obligations.ReservedWordFaults := by
  refine ⟨fun s r hr hd hrun => ⟨_, step_of_reserved_of_running hr hd hrun, ?_⟩, _, rfl⟩
  simp

/-- Settles O51: the inversion of the step, and of each command, gives the table's rows; the rows are all there because a reset has
a next state in every phase and, under the invariant, a command has one outside FAULTED. -/
theorem lifeCycle : Obligations.LifeCycle := by
  refine ⟨fun s t h => ?listed, fun s t hp hr h => ?stuck, fun s hinv hstep => ?complete⟩
  case listed =>
    obtain ⟨hr, rfl⟩ | ⟨hr, i, u, hd, hu, rfl⟩ | ⟨hr, r, hd, hrun, rfl⟩ := step_cases h
    case inl => exact .inl ⟨hr, hostAdvance_phase _⟩
    case inr.inr =>
      exact .inr (.inr (.inr (.inr (.inr ⟨hr, hrun, ⟨r, hd⟩, hostAdvance_phase _, hostAdvance_faultCode _⟩))))
    case inr.inl =>
      rw [hostAdvance_phase, hostAdvance_faultCode]
      obtain rfl | ⟨alt, rfl⟩ | rfl := decode_ok_cases hd
      case inl =>
        obtain ⟨hrun, rfl⟩ := execNop_eq_next.mp hu
        exact .inr (.inr (.inl ⟨hr, hrun, hd, rfl⟩))
      case inr.inl =>
        obtain ⟨hrun, rfl⟩ := execInit_eq_next.mp hu
        exact .inr (.inl ⟨hr, hrun, ⟨alt, hd⟩, rfl⟩)
      case inr.inr =>
        obtain ⟨hp, rfl⟩ | ⟨hp, -, rfl⟩ := execNext_cases hu
        · exact .inr (.inr (.inr (.inl ⟨hr, hp, hd, rfl, rfl⟩)))
        · exact .inr (.inr (.inr (.inr (.inl ⟨hr, hp, hd, hp⟩))))
  case stuck => cases (step_of_faulted hp hr).symm.trans h
  case complete =>
    cases hr : s.ports.rst with
    | true => exact ⟨_, step_of_rst hr⟩
    | false => exact step_has_next_of_running hinv (hstep.resolve_left (by simp [hr])) hr

/-! ### NOP and NEXT, phase by phase (R621, R630) -/

/-- Settles O45: NOP's one step is the one that changes nothing, outside FAULTED. -/
theorem nopResult : Obligations.NopResult :=
  ⟨fun _ hrun => execNop_eq_next.mpr ⟨hrun, rfl⟩, fun _ _ hp h => (execNop_eq_next.mp h).1 hp⟩

/-- The known answer of the zero key and nonce: the first block's bytes in order. Sixteen warm-up generations and one more are
evaluated by the kernel, for the elaborator's own evaluation goes too deep. -/
theorem blockBytes_first_of_zero : blockBytes (genBlock .default (initCipher .default 0 0 false)).1 =
    [0x69, 0xca, 0x6d, 0xaf, 0x9a, 0xe3, 0xb7, 0x2d, 0xb1, 0x34, 0xa8, 0x5a, 0x83, 0x7e, 0x41, 0x9d] := by decide +kernel

/-- Settles O46: READY is one generation over the seven values, UNINIT a fault entry, and FAULTED is shut by the command's gate. -/
theorem nextResult : Obligations.NextResult :=
  ⟨fun _ hp hw => execNext_of_ready_written hp hw, fun _ hp => execNext_of_uninit hp,
    fun _ _ hp h => (command_eq_next.mp h).1 hp, blockBytes_first_of_zero⟩

/-! ### LOAD_KEY_IV (R622, R623) -/

/-- Word 8 of A is the key's first two bytes, the first of them low (R622). -/
theorem loadKeyIv_a_get_eight (key : U256) (nonce : U128) (alt : Bool) :
    (loadKeyIv key nonce alt).a.get 8 = u16OfBytes (byteAt key 1) (byteAt key 0) := rfl

/-- Settles O38: the words are those the model loads, with `le16At` written out as its two bytes. -/
theorem loadKeyIvResult : Obligations.LoadKeyIvResult := by
  refine ⟨fun key nonce alt s => rfl, by decide, fun key nonce alt h0 h1 => ?_⟩
  rw [loadKeyIv_a_get_eight, h0, h1]
  rfl

/-- `alt` is no operand of A (R622). -/
theorem loadKeyIv_a_alt (key : U256) (nonce : U128) (alt alt' : Bool) :
    (loadKeyIv key nonce alt).a = (loadKeyIv key nonce alt').a := rfl

/-- `alt` reaches the lower half of B only: from word 8 on B holds the high half of the key (R622). -/
theorem loadKeyIv_b_get_of_ge (key : U256) (nonce : U128) (alt : Bool) {k : Fin 16} (hk : 8 ≤ k.val) :
    (loadKeyIv key nonce alt).b.get k = le16At key (2 * (k.val - 8) + 16) := by
  rw [loadKeyIv, loadB, Lfsr.get_ofFn, if_neg (Nat.not_lt.mpr hk)]

/-! ### The key halves: ROUND_KEY_DERIVE and KEY_INJECT (R625, R628) -/

/-- The low half is bytes 0 to 15. -/
theorem keyHalfWords_low (key : U256) : keyHalfWords key .low = Quad.ofFn fun j =>
    le32 (byteAt key (4 * j.val)) (byteAt key (4 * j.val + 1)) (byteAt key (4 * j.val + 2)) (byteAt key (4 * j.val + 3)) := by
  simp only [keyHalfWords, quadAt, le32At, Nat.zero_add]

/-- The high half is bytes 16 to 31. -/
theorem keyHalfWords_high (key : U256) : keyHalfWords key .high = Quad.ofFn fun j =>
    le32 (byteAt key (16 + 4 * j.val)) (byteAt key (17 + 4 * j.val)) (byteAt key (18 + 4 * j.val))
      (byteAt key (19 + 4 * j.val)) := by
  have hindex (j : Fin 4) (n : Nat) : 16 + 4 * j.val + n = 16 + n + 4 * j.val := Nat.add_right_comm ..
  simp only [keyHalfWords, quadAt, le32At, hindex]

/-- Both halves of the zero key are zero. -/
theorem keyHalfWords_zero (half : KeyHalf) : keyHalfWords 0 half = .fill 0 := by
  cases half <;> decide

/-- Under KEY_DERIVED the round keys are the two halves of the key (R625). -/
theorem roundKeyDerive_of_keyDerived {cfg : Config} (h : cfg.roundKeySource = .keyDerived) (key : U256) :
    roundKeyDerive cfg key = (keyHalfWords key .low, keyHalfWords key .high) := by
  simp [roundKeyDerive, h]

/-- Under ZERO the round keys are zero (R625). -/
theorem roundKeyDerive_of_zero {cfg : Config} (h : cfg.roundKeySource = .zero) (key : U256) :
    roundKeyDerive cfg key = (.fill 0, .fill 0) := by
  simp [roundKeyDerive, h]

/-- The zero key gives zero round keys under both parameter values (R625). -/
theorem roundKeyDerive_zeroKey (cfg : Config) : roundKeyDerive cfg 0 = (.fill 0, .fill 0) := by
  cases h : cfg.roundKeySource with
  | keyDerived => rw [roundKeyDerive_of_keyDerived h, keyHalfWords_zero, keyHalfWords_zero]
  | zero => exact roundKeyDerive_of_zero h 0

/-- ROUND_KEY_DERIVE run alone completes in every state, and writes K1 and K2 (R625). -/
theorem exec_roundKeyDerive (key : U256) (s : State) : exec (.roundKeyDerive key) s =
    .next { s with k1 := regWrite (roundKeyDerive s.cfg key).1, k2 := regWrite (roundKeyDerive s.cfg key).2 } := rfl

/-- Settles O39: the round keys are the two key halves, or zero; the example is word 0 of the low half. -/
theorem roundKeyDeriveResult : Obligations.RoundKeyDeriveResult := by
  refine ⟨fun key s hcfg => ?derived, fun key s hcfg => ?zero, roundKeyDerive_zeroKey, fun key h0 h1 h2 h3 => ?ruleExample⟩
  case derived => rw [exec_roundKeyDerive, roundKeyDerive_of_keyDerived hcfg, keyHalfWords_low, keyHalfWords_high]
  case zero => rw [exec_roundKeyDerive, roundKeyDerive_of_zero hcfg]
  case ruleExample =>
    have hword : ((roundKeyDerive .default key).1).get 0 = le32 (byteAt key 0) (byteAt key 1) (byteAt key 2) (byteAt key 3) := rfl
    rw [hword, h0, h1, h2, h3]
    rfl

/-- KEY_INJECT run alone completes where R1 holds a value, and writes R1 (R628). -/
theorem exec_keyInject_of_written {s : State} (h1 : s.r1.written = true) (key : U256) (half : KeyHalf) :
    exec (.keyInject key half) s = .next { s with r1 := regWrite (keyInject key half s.r1.val) } := by
  change execKeyInject key half s = _
  rw [execKeyInject, regRead_of_written h1]
  rfl

/-- Settles O41: R1 takes the XOR of the key half's words, which under KEY_DERIVED are those of the round key. -/
theorem keyInjectResult : Obligations.KeyInjectResult := by
  refine ⟨fun key s h1 => ⟨?low, ?high⟩, fun cfg key r1 hcfg => ?roundKeys⟩
  case low => rw [exec_keyInject_of_written h1, keyInject, keyHalfWords_low]; rfl
  case high => rw [exec_keyInject_of_written h1, keyInject, keyHalfWords_high]; rfl
  case roundKeys =>
    rw [roundKeyDerive_of_keyDerived hcfg]
    exact ⟨rfl, rfl⟩

/-! ### The warm-up (R626, R627) -/

/-- WARMUP_FOLD run alone completes where A holds a value, and writes A (R627). -/
theorem exec_warmupFold_of_written {s : State} (ha : s.a.written = true) (z : U128) :
    exec (.warmupFold z) s = .next { s with a := regWrite (warmupFold z s.a.val) } := by
  change execWarmupFold z s = _
  rw [execWarmupFold, regRead_of_written ha]
  rfl

/-- The fold keeps the lower half of A (R627). -/
theorem warmupFold_get_of_lt (z : U128) (a : Lfsr) {k : Fin 16} (hk : k.val < 8) : (warmupFold z a).get k = a.get k := by
  rw [warmupFold, Lfsr.get_ofFn, if_pos hk]

/-- The fold XORs the block's word `k - 8` into word `k` of the upper half (R627). -/
theorem warmupFold_get_of_ge (z : U128) (a : Lfsr) {k : Fin 16} (hk : 8 ≤ k.val) :
    (warmupFold z a).get k = a.get k ^^^ le16At z (2 * (k.val - 8)) := by
  rw [warmupFold, Lfsr.get_ofFn, if_neg (Nat.not_lt.mpr hk)]

/-- Settles O40: only A is written, and its halves are those of the fold. -/
theorem warmupFoldResult : Obligations.WarmupFoldResult := by
  intro z s ha
  refine ⟨_, exec_warmupFold_of_written ha z, rfl, rfl, fun j => ?lower, fun j => ?upper⟩
  case lower =>
    have hval : (Fin.ofNat 16 j.val).val = j.val := Nat.mod_eq_of_lt (by omega)
    exact warmupFold_get_of_lt z _ (by omega)
  case upper =>
    have hval : (Fin.ofNat 16 (8 + j.val)).val = 8 + j.val := Nat.mod_eq_of_lt (by omega)
    refine (warmupFold_get_of_ge z _ (by omega)).trans ?_
    rw [hval, Nat.add_sub_cancel_left, le16At]

/-- No injection belongs to a generation before number 14 (R626). -/
theorem injectAt_of_lt {i : Nat} (hi : i < 14) (key : U256) (r1 : Quad) : injectAt key i r1 = r1 := by
  rw [injectAt, if_neg (by omega), if_neg (by omega)]

/-- The warm-up keeps the round keys: a generation does not write them, and the fold and the injection write A and R1 (R603). -/
theorem roundKeys_warmupN (cfg : Config) (key : U256) (n : Nat) (c : Cipher) :
    (warmupN cfg key n c).k1 = c.k1 ∧ (warmupN cfg key n c).k2 = c.k2 := by
  induction n with
  | zero => exact ⟨rfl, rfl⟩
  | succ n ih => exact ih

/-- Settles O42: generation `i` is one `warmupStep`, whose injection is `injectAt`. -/
theorem warmupSchedule : Obligations.WarmupSchedule := by
  intro cfg key c i _
  obtain ⟨hk1, hk2⟩ := roundKeys_warmupN cfg key (i + 1) c
  refine ⟨rfl, rfl, rfl, rfl, hk1, hk2, fun hi => injectAt_of_lt hi key _, ?_, ?_⟩
  · rintro rfl
    rfl
  · rintro rfl
    rfl

/-! ### INIT (R624, R629) -/

/-- R1 after INIT with a zero key and nonce, evaluated by the kernel as the first block is. -/
theorem initCipher_zero_r1 :
    (initCipher .default 0 0 false).r1 = ⟨0x18d61911, 0x6c74661d, 0x8a96ef5d, 0x1c35f7f7⟩ := by decide +kernel

/-- Settles O43: outside FAULTED INIT leaves `afterInit`, whose cipher is the warm-up of the loaded registers. -/
theorem initResult : Obligations.InitResult := by
  refine ⟨fun alt s hrun => ?completes, fun key nonce => ⟨loadKeyIv_a_alt key nonce true false, fun k hk => ?upper⟩,
    initCipher_zero_r1⟩
  case completes =>
    exact ⟨afterInit alt s, exec_init_of_running hrun, cipherOf_afterInit alt s, cipherWritten_afterInit alt s,
      rfl, rfl, rfl, rfl, rfl, rfl, rfl, rfl⟩
  case upper => rw [loadKeyIv_b_get_of_ge _ _ _ hk, loadKeyIv_b_get_of_ge _ _ _ hk]

end Sys2Proof.Machine

namespace Sys2Proof.Machine

/-! ### The host's next transaction (R313, log entry 5) -/

/-- No command touches the list of transactions to come. -/
theorem pending_of_exec_decoded {w : U8} {i : Instr} {s t : State} (hd : decode w = .ok i) (h : exec i s = .next t) :
    t.pending = s.pending := by
  obtain rfl | ⟨alt, rfl⟩ | rfl := decode_ok_cases hd
  case inl =>
    obtain ⟨-, rfl⟩ := execNop_eq_next.mp h
    rfl
  case inr.inl =>
    obtain ⟨-, rfl⟩ := execInit_eq_next.mp h
    simp only [writeCipher_pending]
  case inr.inr =>
    obtain ⟨-, rfl⟩ | ⟨-, -, rfl⟩ := execNext_cases h
    · simp only [raiseFault_pending]
    · simp only [writeGenerated_pending]

/-- A step ends with the host's next transaction, driven over a state that still has the whole list. -/
theorem step_eq_hostAdvance {s t : State} (h : step s = .next t) : ∃ u, u.pending = s.pending ∧ t = hostAdvance u := by
  obtain ⟨-, rfl⟩ | ⟨-, i, u, hd, hu, rfl⟩ | ⟨-, r, -, -, rfl⟩ := step_cases h
  · exact ⟨_, resetCore_pending s, rfl⟩
  · exact ⟨u, pending_of_exec_decoded hd hu, rfl⟩
  · exact ⟨_, raiseFault_pending s _, rfl⟩

/-- Settles O8: reset, command and fault entry keep the list, and the host's advance then takes its first transaction. -/
theorem hostOrder : Obligations.HostOrder := by
  intro s t h
  obtain ⟨u, hpend, rfl⟩ := step_eq_hostAdvance h
  rw [hostAdvance_pending, ← hpend]
  refine ⟨fun p rest hcons => ⟨hostAdvance_ports_cons u p rest hcons, ?_⟩, fun hnil => ⟨hostAdvance_ports_nil u hnil, ?_⟩⟩
  · rw [hcons, List.tail_cons]
  · rw [hnil, List.tail_nil]

/-! ### Fault entry (R702) -/

/-- Without reset a step into FAULTED is a fault entry: no NOP, INIT or generation ends there. -/
theorem step_into_faulted {s t : State} (hr : s.ports.rst = false) (h : step s = .next t) (hp : t.phase = .faulted) :
    ∃ code, code ≠ .none ∧ t = hostAdvance (raiseFault s code) := by
  obtain ⟨hrst, -⟩ | ⟨-, i, u, hd, hu, rfl⟩ | ⟨-, r, -, -, rfl⟩ := step_cases h
  case inl => simp [hr] at hrst
  case inr.inr => exact ⟨.reservedCommand, nofun, rfl⟩
  case inr.inl =>
    rw [hostAdvance_phase] at hp
    obtain rfl | ⟨alt, rfl⟩ | rfl := decode_ok_cases hd
    case inl =>
      obtain ⟨hrun, rfl⟩ := execNop_eq_next.mp hu
      exact absurd hp hrun
    case inr.inl =>
      obtain ⟨-, rfl⟩ := execInit_eq_next.mp hu
      cases hp
    case inr.inr =>
      obtain ⟨-, rfl⟩ | ⟨hready, -, rfl⟩ := execNext_cases hu
      · exact ⟨.notInitialized, nofun, rfl⟩
      · cases hready.symm.trans hp

/-- Settles O49: a step into FAULTED is a fault entry, which writes the phase and the code and no register. -/
theorem faultEntryIsPrecise : Obligations.FaultEntryIsPrecise := by
  intro s t hr h hp
  obtain ⟨code, hcode, rfl⟩ := step_into_faulted hr h hp
  simp [hcode]

/-! ### Reset, and FAULTED until reset (R704, R800) -/

/-- A step with `rst` asserted leaves the table of R218, which the host's next transaction does not touch. -/
theorem step_of_rst_is_reset {s t : State} (hr : s.ports.rst = true) (h : step s = .next t) :
    CipherBlank t ∧ t.phase = .uninit ∧ t.faultCode = .none ∧ t.ksOut.written = false ∧ t.ksValid = false := by
  obtain rfl := Host.Outcome.next.inj ((step_of_rst hr).symm.trans h)
  simp [CipherBlank, State.reset]

/-- In FAULTED without reset no word on the port has a step (R704). -/
theorem step_ne_next_of_faulted {s : State} (t : State) (hp : s.phase = .faulted) (hr : s.ports.rst = false) :
    step s ≠ .next t := by
  rw [step_of_faulted hp hr]
  nofun

/-- Settles O50: the stop of R704, and the step of R800 out of it. -/
theorem faultedIsStuck : Obligations.FaultedIsStuck :=
  ⟨fun _ t => step_ne_next_of_faulted t, fun _ _ hr => ⟨_, step_of_rst hr, hostAdvance_phase _⟩⟩

/-- Settles O2: with `rst` asserted the step is reset, whatever the phase and the word; without it FAULTED has no step. -/
theorem resetFromEveryPhase : Obligations.ResetFromEveryPhase := by
  refine ⟨fun s hr => ⟨_, step_of_rst hr, step_of_rst_is_reset hr (step_of_rst hr)⟩, fun s t hp h => ?_⟩
  by_contra hr
  exact step_ne_next_of_faulted t hp (by simpa using hr) h

/-- The next transaction moves from the list to the ports, and nothing else changes. -/
theorem hostAdvance_of_cons {s : State} {p : Ports} {rest : List Ports} (h : s.pending = p :: rest) :
    hostAdvance s = { s with ports := p, pending := rest } := by
  simp [hostAdvance, h]

/-- Settles O59: the turn over the stuck command drives the reset, and the turn after it is the reset step, which `hostOrder` says
leaves the rest of the list to come. -/
theorem resetAfterStuckCommand : Obligations.ResetAfterStuckCommand := by
  refine ⟨fun s p rest hp hr hpend hrst => ⟨?stuck, ?recovers⟩, fun s t => hostTurn_of_next⟩
  case stuck => rw [hostTurn_of_faulted hp hr, hostAdvance_of_cons hpend]
  case recovers =>
    have hstep := step_of_rst (s := { s with ports := p, pending := rest }) hrst
    obtain ⟨hblank, hphase, hcode, hksOut, hksValid⟩ := step_of_rst_is_reset hrst hstep
    exact ⟨_, hostTurn_of_next hstep, hblank, hphase, hcode, hksOut, hksValid, (hostOrder _ _ hstep).1⟩

/-! ### The operations that only return a value (log entry 4) -/

/-- KS_COMBINE run alone where B, R1 and R2 hold values puts its lane's word on the result lines (R601). -/
theorem exec_ksCombine_of_written {s : State} (hb : s.b.written = true) (h1 : s.r1.written = true)
    (h2 : s.r2.written = true) (i : Fin 4) :
    exec (.ksCombine i) s = .next (putUnit s (.word (ksCombine s.b.val s.r1.val s.r2.val i))) := by
  change execKsCombine i s = _
  rw [execKsCombine, readCombiner_of_written hb h1 h2]
  rfl

/-- Settles O12: nine of the operations read their operands alone, so each is its write of the result lines as it stands; KS_COMBINE
reads three registers first. -/
theorem unitOperationsComplete : Obligations.UnitOperationsComplete := fun _ =>
  ⟨fun _ => rfl, fun _ => rfl, fun _ => rfl, fun _ => rfl, fun _ => rfl, fun _ => rfl, fun _ => rfl, fun _ _ => rfl,
    fun _ => rfl, fun i hb h1 h2 => exec_ksCombine_of_written hb h1 h2 i⟩

end Sys2Proof.Machine
